-- ==== Sys2Proof/Word.lean ====
section
/-! DEFINITION. The value types of 00_scope.md R19: bytes, 32-bit words, the 7-bit working-state index,
and the 12-bit offset within the 4 KiB register window (10_state.md R40). -/

namespace Sys2Proof

/-- `u8` of R19. -/
abbrev Byte := BitVec 8

/-- `u32` of R19: a command word, a register word. -/
abbrev Word := BitVec 32

/-- `u7` of R19: an index of the working state. Arithmetic on it is modulo 128, as 20_memory.md R55 asks. -/
abbrev WsIndex := BitVec 7

/-- A byte offset from BASE inside the 4 KiB window of 10_state.md R40. -/
abbrev Offset := BitVec 12

end Sys2Proof
end

