-- ==== Sys2Proof/Config.lean ====
section
/-! DEFINITION. The named constants of 00_scope.md R15 and R16 and the decided parameters of R17, each
written once (R7, R18). BASE and N_INSTANCES stay open: Sys2Proof/Machine/Platform.lean takes them as arguments.
No value of this hardware is undefined, so there is no free value here. -/

namespace Sys2Proof.Config

/-- BLOCK (R15): the padding block size. -/
abbrev block : Nat := 4

/-- PRNG_BYTES (R15): the PRNG state bytes x, y, z, w. So many padded bytes seed the PRNG (42_absorb.md R92,
45_commands.md R111), and so many working-state bytes each reseed of finalization (43_finalize.md R100). -/
abbrev prngBytes : Nat := 4

/-- WS_SIZE (R15): working-state bytes. -/
abbrev wsSize : Nat := 128

/-- DIGEST_SIZE (R15): digest bytes. -/
abbrev digestSize : Nat := 32

/-- DIFF_ROUNDS (R15): diffusion rounds at the end of absorption. -/
abbrev diffRounds : Nat := 256

/-- FIN_OUTER (R15): reseeds of finalization. -/
abbrev finOuter : Nat := 32

/-- FIN_INNER (R15): finalization rounds per reseed. -/
abbrev finInner : Nat := 128

/-- FOLD_STRIDE (R15): distance between the four fold slices. -/
abbrev foldStride : Nat := 32

/-- SH_X (R16): "x shiftLeft 3". UNVERIFIED against the reference code (91_not_in_source.md N2, entry 19). -/
abbrev shX : Nat := 3

/-- SH_W (R16): "old_w rightShift 1". UNVERIFIED against the reference code (N2, entry 19). -/
abbrev shW : Nat := 1

/-- SH_T (R16): "t shiftLeft 2". UNVERIFIED against the reference code (N2, entry 19). -/
abbrev shT : Nat := 2

/-- MASK (R16). -/
abbrev mask : Nat := 0xFF

/-- The host data width of R17 in bytes: the only width a host access may have (20_memory.md R56). -/
abbrev hostBytes : Nat := 4

/-- The size of the register window in bytes, and the alignment of BASE (R17, 20_memory.md R64). -/
abbrev windowBytes : Nat := 4096

end Sys2Proof.Config
end

