-- ==== Sys2Proof/Syntax.lean ====
section
/-! DEFINITION. The commands of 30_encoding.md R75, one constructor for each row of spec/opcode_table.json,
and the command errors of 60_exceptions.md R121. -/

namespace Sys2Proof

/-- A decoded command (30_encoding.md R75, R76). -/
inductive Instr where
  /-- START: begin a computation (45_commands.md R112). -/
  | start
  /-- BYTE d: append one message byte (R113). -/
  | byte (d : Byte)
  /-- END: pad, finish absorption, finalize and fold (R114). -/
  | endMessage
  /-- SEED: load the PRNG state from ARG (R115). -/
  | seed
  /-- NEXT d: run the PRNG once on an input byte (R116). -/
  | next (d : Byte)
deriving DecidableEq, Repr

/-- The three fields of the one command format `C` (30_encoding.md R72). -/
structure CommandFields where
  /-- OP, bits [7:0]. -/
  op : Byte
  /-- DATA, bits [15:8]. -/
  data : Byte
  /-- RSV, bits [31:16]. -/
  rsv : BitVec 16
deriving DecidableEq, Repr

/-- The command errors of 60_exceptions.md R121. Taking one is a next state (R124), never a stop. -/
inductive CmdError where
  /-- RESERVED_BITS, code 1. -/
  | reservedBits
  /-- ILLEGAL_OPCODE, code 2. -/
  | illegalOpcode
  /-- ILLEGAL_SEQUENCE, code 3. -/
  | illegalSequence
deriving DecidableEq, Repr

end Sys2Proof
end

