-- ==== Sys2Proof/WellFormed.lean ====
section
/-! DEFINITION. Which command words are well formed (30_encoding.md R72, R75, R77). A decoded `Instr` holds only
bytes, so every term of it is well formed; the checks are on the fields of a command word, one check for each
reserved or illegal encoding of R77. -/

namespace Sys2Proof

/-- "A word with RSV != 0 raises RESERVED_BITS" (R77): the reserved half is clear. -/
def CommandFields.rsvClear (f : CommandFields) : Bool := f.rsv == 0

/-- "A word with OP = 0x00 or OP in [0x06, 0xFF] raises ILLEGAL_OPCODE" (R77): the opcode is assigned. -/
def CommandFields.opAssigned (f : CommandFields) : Bool := decide (1 ≤ f.op.toNat ∧ f.op.toNat ≤ 5)

/-- BYTE and NEXT are the two commands with a byte operand (R75). -/
def CommandFields.takesData (f : CommandFields) : Bool := f.op == 2 || f.op == 5

/-- "START, END or SEED with DATA != 0 raises RESERVED_BITS" (R77): a command without operand has DATA clear. -/
def CommandFields.dataClear (f : CommandFields) : Bool := f.takesData || f.data == 0

/-- The word is an encoding of some command (R75, R77). -/
def CommandFields.wellFormed (f : CommandFields) : Bool := f.rsvClear && f.opAssigned && f.dataClear

end Sys2Proof
end

