-- ==== Sys2Proof/Decode.lean ====
section
/-! DEFINITION. The decoder of 30_encoding.md R76, total on every 32-bit word and rejecting by the name of the
command error, and after it the encoder (R72, R75). -/

namespace Sys2Proof

/-- The fields of a command word (30_encoding.md R72). -/
def commandFields (w : Word) : CommandFields where
  op := w.extractLsb' 0 8
  data := w.extractLsb' 8 8
  rsv := w.extractLsb' 16 16

/-- OP of START (30_encoding.md R75). -/
def opStart : Byte := 0x01

/-- OP of BYTE (R75). -/
def opByte : Byte := 0x02

/-- OP of END (R75). -/
def opEnd : Byte := 0x03

/-- OP of SEED (R75). -/
def opSeed : Byte := 0x04

/-- OP of NEXT (R75). -/
def opNext : Byte := 0x05

/-- The decoder, its tests in the order of 30_encoding.md R76, which is the priority of 60_exceptions.md R126. -/
def decode (w : Word) : Except CmdError Instr :=
  let f := commandFields w
  if f.rsv ≠ 0 then .error .reservedBits
  else if f.op ∉ [opStart, opByte, opEnd, opSeed, opNext] then .error .illegalOpcode
  else if f.op ∈ [opStart, opEnd, opSeed] ∧ f.data ≠ 0 then .error .reservedBits
  else if f.op = opStart then .ok .start
  else if f.op = opByte then .ok (.byte f.data)
  else if f.op = opEnd then .ok .endMessage
  else if f.op = opSeed then .ok .seed
  else .ok (.next f.data)

/-- The fields the encoding tables give a command (30_encoding.md R75): OP from the map, DATA the byte operand or 0,
RSV 0. -/
def instrFields (i : Instr) : CommandFields :=
  match i with
  | .start => ⟨opStart, 0, 0⟩
  | .byte d => ⟨opByte, d, 0⟩
  | .endMessage => ⟨opEnd, 0, 0⟩
  | .seed => ⟨opSeed, 0, 0⟩
  | .next d => ⟨opNext, d, 0⟩

/-- The word with the given fields: RSV in [31:16], DATA in [15:8], OP in [7:0] (30_encoding.md R72). -/
def assembleFields (f : CommandFields) : Word := f.rsv ++ f.data ++ f.op

/-- The encoder: the command word of a command (30_encoding.md R75, R79). -/
def encode (i : Instr) : Word := assembleFields (instrFields i)

/-- The `match` value of the command's row in the opcode map (30_encoding.md R75). -/
def rowMatch (i : Instr) : Word :=
  match i with
  | .start => 0x00000001
  | .byte _ => 0x00000002
  | .endMessage => 0x00000003
  | .seed => 0x00000004
  | .next _ => 0x00000005

/-- The `mask` value of the command's row in the opcode map (30_encoding.md R75). -/
def rowMask (i : Instr) : Word :=
  match i with
  | .start => 0xFFFFFFFF
  | .byte _ => 0xFFFF00FF
  | .endMessage => 0xFFFFFFFF
  | .seed => 0xFFFFFFFF
  | .next _ => 0xFFFF00FF

/-- The command word whose low `nbits` bits are those of `w`, every bit above them 0. -/
def tableWord (nbits w : Nat) : Word := BitVec.ofNat 32 (w % 2 ^ nbits)

/-- The command the decoder reads from the word with the bits `w`, numbered as spec/opcode_table.json numbers them.
A command is one 32-bit word written whole to CMD (30_encoding.md R73), so no byte order comes in. -/
def decodeTableWord (nbits w : Nat) : Option Instr :=
  match decode (tableWord nbits w) with
  | .ok i => some i
  | .error _ => none

end Sys2Proof
end

