-- ==== Sys2Proof/Machine/State.lean ====
section
/-! DEFINITION. The state: one block instance with exactly the elements of 10_state.md R24, and beside it the
model's own fields for what surrounds the block (the host's accesses to come, whose turn it is, what the bus has
answered). The state after reset (70_reset_and_hazards.md R138). The reasons a step can stop. -/

namespace Sys2Proof.Machine

/-- PHASE (10_state.md R35). -/
inductive Phase where
  /-- 0: after reset, before the first START. -/
  | idle
  /-- 1: after START, taking message bytes. -/
  | absorbing
  /-- 2: after END, `dig` holds the digest of the last message. -/
  | done
  /-- 3: after a command error. -/
  | error
deriving DecidableEq, Repr

/-- The working-state buffer `ws[0..127]` (10_state.md R30). -/
abbrev WorkingState := Vector Byte Config.wsSize

/-- The digest buffer `dig[0..31]` (10_state.md R31). -/
abbrev Digest := Vector Byte Config.digestSize

/-- One block instance: exactly the state elements of 10_state.md R24. -/
structure Block where
  /-- X (R28). -/
  x : Byte
  /-- Y (R28). -/
  y : Byte
  /-- Z (R28). -/
  z : Byte
  /-- W (R28). -/
  w : Byte
  /-- OUT, the byte the most recent prng_next returned (R29). -/
  out : Byte
  /-- The working state (R30). -/
  ws : WorkingState
  /-- The digest (R31). -/
  dig : Digest
  /-- COUNT, padded bytes taken since START, modulo 2^32 (R32). -/
  count : BitVec 32
  /-- POS, the index the most recent folded byte wrote (R34). -/
  pos : WsIndex
  /-- SEEDED (R33). -/
  seeded : Bool
  /-- PHASE (R35). -/
  phase : Phase
  /-- ERRCODE, 4 bits (R36). -/
  errCode : BitVec 4
  /-- ERRCMD (R37). -/
  errCmd : Word
  /-- ARG (R38). -/
  arg : Word
  /-- LATCH, empty or one command word (R39). -/
  latch : Option Word
deriving DecidableEq, Repr

/-- One host bus access to the register window (00_scope.md R22, 20_memory.md R56): `n` is the width in bytes and
`off` the offset from BASE. A width other than 4 can be asked for, and gets the bus error of R57 (a). -/
inductive Access where
  /-- `MemRead(BASE + off, n)`. -/
  | read (n : Nat) (off : Offset)
  /-- `MemWrite(BASE + off, n, v)`. -/
  | write (n : Nat) (off : Offset) (v : Word)
deriving DecidableEq, Repr

/-- What reaches the block from outside. -/
inductive Input where
  /-- A host bus access. -/
  | access (a : Access)
  /-- `WAIT`: repeat `RD STATUS` until BUSY reads 0 (30_encoding.md R80). -/
  | wait
  /-- The reset input is asserted (70_reset_and_hazards.md R138). -/
  | reset
deriving DecidableEq, Repr

/-- What the bus answers an access. -/
inductive Response where
  /-- A read completed with this value (20_memory.md R62). -/
  | data (v : Word)
  /-- A write completed (R60, R61). -/
  | written
  /-- `BusError(BASE + off)` (R57). -/
  | busError (off : Offset)
deriving DecidableEq, Repr

/-- The agents of 00_scope.md R14. -/
inductive Turn where
  /-- The host (or the reset input) moves. -/
  | host
  /-- The core moves. -/
  | core
deriving DecidableEq, Repr

/-- The machine: the block, and the model's own fields about its surroundings (assumption log, entries 1 and 2). -/
structure State where
  /-- The block instance (10_state.md R24). -/
  block : Block
  /-- The inputs still to come, oldest first. -/
  inputs : List Input
  /-- Who moves, one entry for each step at which LATCH is full; when it is empty the core moves. -/
  turns : List Turn
  /-- The bus's answers so far, oldest first. -/
  responses : List Response
deriving DecidableEq, Repr

/-- Why the machine can stop. No rule of the spec stops the block (60_exceptions.md R129): command errors and bus
errors are next states. -/
inductive Fault where
  /-- Raised by the platform layer (Machine/Platform.lean) alone, for a bus address in no instance's window: the spec
  describes only the blocks. Safe: the model stops where a platform may go on. `step` never raises it. -/
  | noBlockAt (addr : Nat)
deriving DecidableEq, Repr

/-- Why an instruction has no meaning. -/
inductive Refusal where
  /-- Raised by an arm of `exec` whose instruction has no meaning yet; no arm of this model does. Safe. -/
  | notModelled (mnemonic : String)
deriving DecidableEq, Repr

/-- The block after reset: the table of 70_reset_and_hazards.md R138. -/
def Block.reset : Block where
  x := 0
  y := 0
  z := 0
  w := 0
  out := 0
  ws := Vector.replicate Config.wsSize 0
  dig := Vector.replicate Config.digestSize 0
  count := 0
  pos := 0
  seeded := false
  phase := .idle
  errCode := 0
  errCmd := 0
  arg := 0
  latch := none

/-- The machine right after reset (R138), with nothing asked of it yet (entry 2). -/
def State.reset : State where
  block := Block.reset
  inputs := []
  turns := []
  responses := []

end Sys2Proof.Machine
end

