-- ==== Sys2Proof/Machine/Operands.lean ====
section
/-! DEFINITION. Operand assembly (30_encoding.md R74) and the little-endian packing of bytes into register words
(20_memory.md R58). -/

namespace Sys2Proof.Machine

/-- Byte `k` of a register word: bits `[8k+7 : 8k]` (20_memory.md R58). -/
def wordByte (v : Word) (k : Nat) : Byte := v.extractLsb' (8 * k) 8

/-- The register word that holds four bytes, the first in `[7:0]` (20_memory.md R58). -/
def packBytes (b0 b1 b2 b3 : Byte) : Word := b3 ++ b2 ++ b1 ++ b0

/-- SEED's operand for X: `ARG[7:0]` (30_encoding.md R74). -/
def seedX (arg : Word) : Byte := wordByte arg 0

/-- SEED's operand for Y: `ARG[15:8]` (R74). -/
def seedY (arg : Word) : Byte := wordByte arg 1

/-- SEED's operand for Z: `ARG[23:16]` (R74). -/
def seedZ (arg : Word) : Byte := wordByte arg 2

/-- SEED's operand for W: `ARG[31:24]` (R74). -/
def seedW (arg : Word) : Byte := wordByte arg 3

end Sys2Proof.Machine
end

