-- ==== Sys2Proof/Machine/Flags.lean ====
section
/-! DEFINITION. The status flags (10_state.md R51): the codes of PHASE and ERRCODE, and the words in which the host
reads them, STATUS (R43) and SEQ (R48). -/

namespace Sys2Proof.Machine

/-- The value of PHASE (10_state.md R35). -/
def phaseCode (p : Phase) : BitVec 2 :=
  match p with
  | .idle => 0
  | .absorbing => 1
  | .done => 2
  | .error => 3

/-- The code of a command error in ERRCODE (60_exceptions.md R121). -/
def errorCode (e : CmdError) : BitVec 4 :=
  match e with
  | .reservedBits => 1
  | .illegalOpcode => 2
  | .illegalSequence => 3

/-- STATUS.BUSY: LATCH is not empty (10_state.md R39, R43). -/
def busy (b : Block) : Bool := b.latch.isSome

/-- STATUS (10_state.md R43): PHASE in [2:0], BUSY in [4], ERRCODE in [11:8], every other bit 0. -/
def statusWord (b : Block) : Word :=
  (0 : BitVec 20) ++ b.errCode ++ (0 : BitVec 3) ++ BitVec.ofBool (busy b) ++ (0 : BitVec 1) ++ (phaseCode b.phase).setWidth 3

/-- SEQ (10_state.md R48): POS in [6:0], SEEDED in [8], every other bit 0. -/
def seqWord (b : Block) : Word :=
  (0 : BitVec 23) ++ BitVec.ofBool b.seeded ++ (0 : BitVec 1) ++ b.pos

end Sys2Proof.Machine
end

