-- ==== Sys2Proof/Machine/Ops.lean ====
section
/-! DEFINITION. The named operations over the block's state: loops, the working-state and digest stores, the single
writes of the sequencer registers, legality by phase, error entry (the block's only exception) and the frame of
every command. -/

namespace Sys2Proof.Machine

/-- `for k in [lo, lo + n)` of 00_scope.md R21: the body at lo, lo+1, ..., in increasing order. -/
def forRange {α : Type} (lo n : Nat) (body : Nat → α → α) (a : α) : α :=
  (List.range' lo n).foldl (fun acc k => body k acc) a

/-- The working-state index `n mod 128` (20_memory.md R55). -/
def wsIndex (n : Nat) : WsIndex := BitVec.ofNat 7 n

/-- `ws[i]` (10_state.md R30). -/
def wsGet (b : Block) (i : WsIndex) : Byte := b.ws[i.toNat]'(i.isLt)

/-- `ws[i] <- v`. -/
def wsSet (b : Block) (i : WsIndex) (v : Byte) : Block := { b with ws := b.ws.set i.toNat v i.isLt }

/-- `dig[i]`, for i in [0, 31] (10_state.md R31). -/
def digGet (b : Block) (i : BitVec 5) : Byte := b.dig[i.toNat]'(i.isLt)

/-- `dig[i] <- v`. -/
def digSet (b : Block) (i : BitVec 5) (v : Byte) : Block := { b with dig := b.dig.set i.toNat v i.isLt }

/-- "Zero-fill the 128-byte working state" (42_absorb.md R92 step 1, 45_commands.md R112). -/
def clearWs (b : Block) : Block := { b with ws := Vector.replicate Config.wsSize 0 }

/-- `POS <- i` (45_commands.md R111). -/
def setPos (b : Block) (i : WsIndex) : Block := { b with pos := i }

/-- `COUNT <- (COUNT + 1) mod 2^32` (45_commands.md R111, 10_state.md R32). -/
def bumpCount (b : Block) : Block := { b with count := b.count + 1 }

/-- `PHASE <- p`. -/
def setPhase (b : Block) (p : Phase) : Block := { b with phase := p }

/-- `ARG <- v` (20_memory.md R61). -/
def setArg (b : Block) (v : Word) : Block := { b with arg := v }

/-- `LATCH <- v` (20_memory.md R60). -/
def fillLatch (b : Block) (v : Word) : Block := { b with latch := some v }

/-- `LATCH <- empty` (45_commands.md R110). -/
def emptyLatch (b : Block) : Block := { b with latch := none }

/-- `enter_error(code, w)` (60_exceptions.md R124), the only trap mechanism of the block. Its return is START
(R128), `startBlock` of Machine/Commands.lean. -/
def enterError (e : CmdError) (w : Word) (b : Block) : Block :=
  { b with phase := .error, errCode := errorCode e, errCmd := w }

/-- What 30_encoding.md R78 says of a command in a phase. -/
inductive Legality where
  /-- The command executes. -/
  | ok
  /-- It raises ILLEGAL_SEQUENCE. -/
  | illegal
  /-- It is discarded without effect (60_exceptions.md R127). -/
  | discarded
deriving DecidableEq, Repr

/-- The legality table of 30_encoding.md R78. -/
def legality (i : Instr) (p : Phase) : Legality :=
  match i, p with
  | .start, _ => .ok
  | _, .error => .discarded
  | .byte _, .absorbing => .ok
  | .byte _, _ => .illegal
  | .endMessage, .absorbing => .ok
  | .endMessage, _ => .illegal
  | .seed, .absorbing => .illegal
  | .seed, _ => .ok
  | .next _, .absorbing => .illegal
  | .next _, _ => .ok

/-- The state with its block changed by `f`. -/
def State.mapBlock (f : Block → Block) (s : State) : State := { s with block := f s.block }

/-- The frame of every command (45_commands.md R110): `f` where the command is legal, the error entry with the
command's word where it is out of sequence, nothing where it is discarded. The word recorded is `encode i`, which is
the latched word that decoded to `i` (DEDUCED, entry 7). -/
def perform (i : Instr) (f : Block → Block) (s : State) : Host.Outcome State Fault Refusal :=
  match legality i s.block.phase with
  | .ok => .next (s.mapBlock f)
  | .illegal => .next (s.mapBlock (enterError .illegalSequence (encode i)))
  | .discarded => .next s

end Sys2Proof.Machine
end

