-- ==== Sys2Proof/Machine/Prng.lean ====
section
/-! DEFINITION. The PRNG core (40_prng.md) and the two commands that reach it, SEED and NEXT (45_commands.md R115,
R116). -/

namespace Sys2Proof.Machine

/-- `prng_seed(a, b, c, d)` (40_prng.md R81). Its operands are bytes, so "mod 256 each" changes nothing. -/
def prngSeed (k : Block) (a b c d : Byte) : Block := { k with x := a, y := b, z := c, w := d }

/-- The intermediate t of 40_prng.md R82, computed on unbounded integers and masked at the end: "the shift is NOT
pre-masked before the XOR". -/
def prngMix (x d : Byte) : Byte :=
  BitVec.ofNat 8 (((x.toNat ^^^ d.toNat) ^^^ (x.toNat <<< Config.shX)) &&& Config.mask)

/-- The new W of 40_prng.md R82. -/
def prngFeedback (oldW t : Byte) : Byte :=
  BitVec.ofNat 8
    ((oldW.toNat ^^^ (oldW.toNat >>> Config.shW) ^^^ t.toNat ^^^ ((t.toNat <<< Config.shT) &&& Config.mask)) &&& Config.mask)

/-- The byte `prng_next(d)` returns, which is the new W (40_prng.md R82). -/
def prngByte (b : Block) (d : Byte) : Byte := prngFeedback b.w (prngMix b.x d)

/-- `prng_next(d)` as a change of state (40_prng.md R82): the bytes shift down, W and OUT take the new byte. -/
def prngNext (b : Block) (d : Byte) : Block :=
  { b with x := b.y, y := b.z, z := b.w, w := prngByte b d, out := prngByte b d }

/-- What SEED does where it is legal (45_commands.md R115). -/
def seedBlock (b : Block) : Block := prngSeed b (seedX b.arg) (seedY b.arg) (seedZ b.arg) (seedW b.arg)

/-- SEED (45_commands.md R115). -/
def execSeed (s : State) : Host.Outcome State Fault Refusal := perform .seed seedBlock s

/-- NEXT d (45_commands.md R116). -/
def execNext (d : Byte) (s : State) : Host.Outcome State Fault Refusal := perform (.next d) (prngNext · d) s

end Sys2Proof.Machine
end

