-- ==== Sys2Proof/Machine/Digest.lean ====
section
/-! DEFINITION. The digest functions: padder (41_padding.md), absorber (42_absorb.md), finalizer (43_finalize.md),
folder and their composition `hash` (44_fold.md). -/

namespace Sys2Proof.Machine

/-- p of 41_padding.md R88: the number of pad bytes after n message bytes. -/
def padLength (n : Nat) : Nat := Config.block - n % Config.block

/-- `pad(m)` (41_padding.md R88). -/
def pad (m : List Byte) : List Byte :=
  m ++ List.replicate (padLength m.length) (BitVec.ofNat 8 (padLength m.length))

/-- `ws[i] <- ws[i] ^ prng_next(d)`: the one write the absorber and the finalizer make. -/
def xorNext (b : Block) (i : WsIndex) (d : Byte) : Block := wsSet (prngNext b d) i (wsGet b i ^^^ prngByte b d)

/-- `absorb_step(pos, b)` (42_absorb.md R93). -/
def absorbStep (b : Block) (pos : WsIndex) (v : Byte) : Block := xorNext b pos v

/-- `diffuse(pos0)` (42_absorb.md R94): the input of each round is ws[idx] before that round's XOR. The starting index is
the spec's reading A (92_eei_decisions.md D12; UNVERIFIED against the reference, entry 9). -/
def diffuse (b : Block) (pos0 : WsIndex) : Block :=
  forRange 0 Config.diffRounds
    (fun r b =>
      let idx := wsIndex (pos0.toNat + r)
      xorNext b idx (wsGet b idx))
    b

/-- Step 3 of `absorb` (42_absorb.md R92) at padded index i, with the local variable pos of the pseudocode beside the
block. -/
def absorbIndex (pm : List Byte) (i : Nat) (a : Block × WsIndex) : Block × WsIndex :=
  let pos := wsIndex i
  (absorbStep a.1 pos (pm.getD i 0), pos)

/-- `absorb(pm)` (42_absorb.md R92). The seed bytes go in index order (D10) and pos is 0 when nothing is folded (D11):
entry 9. Its operand has at least four bytes; a shorter one, which `pad` never gives, would read 0 for a missing byte
(DESIGN CHOICE, entry 15). -/
def absorb (pm : List Byte) (b : Block) : Block :=
  let b := clearWs b
  let b := prngSeed b (pm.getD 0 0) (pm.getD 1 0) (pm.getD 2 0) (pm.getD 3 0)
  let folded := forRange Config.prngBytes (pm.length - Config.prngBytes) (absorbIndex pm) (b, 0)
  diffuse folded.1 folded.2

/-- One outer step of `finalize` (43_finalize.md R100): reseed from ws[4q .. 4q+3], whose 4 is
PRNG_BYTES, then XOR the whole working state. -/
def finalizePass (q : Nat) (b : Block) : Block :=
  let i := Config.prngBytes * q
  let b := prngSeed b (wsGet b (wsIndex i)) (wsGet b (wsIndex (i + 1))) (wsGet b (wsIndex (i + 2))) (wsGet b (wsIndex (i + 3)))
  forRange 0 Config.finInner (fun j b => xorNext b (wsIndex j) 0) b

/-- `finalize()` (43_finalize.md R100). -/
def finalize (b : Block) : Block := forRange 0 Config.finOuter finalizePass b

/-- acc of 44_fold.md R105: the sum of column i and the feedback byte, on unbounded integers, modulo 256. -/
def foldByte (b : Block) (i : Nat) (fb : Byte) : Byte :=
  BitVec.ofNat 8
    ((wsGet b (wsIndex i)).toNat + (wsGet b (wsIndex (i + Config.foldStride))).toNat
      + (wsGet b (wsIndex (i + 2 * Config.foldStride))).toNat + (wsGet b (wsIndex (i + 3 * Config.foldStride))).toNat
      + fb.toNat)

/-- One step of `fold` (44_fold.md R105), with the feedback byte beside the block. -/
def foldIndex (i : Nat) (a : Block × Byte) : Block × Byte :=
  let acc := foldByte a.1 i a.2
  (digSet a.1 (BitVec.ofNat 5 i) acc, acc)

/-- `fold()` (44_fold.md R105). -/
def fold (b : Block) : Block := (forRange 0 Config.digestSize foldIndex (b, 0)).1

/-- What `hash(m)` (44_fold.md R108) leaves in the block: absorb, finalize, fold. -/
def hashBlock (m : List Byte) (b : Block) : Block := fold (finalize (absorb (pad m) b))

/-- `hash(m)` (44_fold.md R108): the 32-byte digest of a message. It is computed from the reset block; R108 says that the
result depends on m alone. -/
def hashMessage (m : List Byte) : Digest := (hashBlock m Block.reset).dig

end Sys2Proof.Machine
end

