-- ==== Sys2Proof/Machine/Commands.lean ====
section
/-! DEFINITION. The hash commands START, BYTE and END (45_commands.md R111 to R114). START is also the return from the
ERROR phase (60_exceptions.md R128). -/

namespace Sys2Proof.Machine

/-- The first branch of `absorb_byte` (45_commands.md R111, 42_absorb.md R99): padded byte k goes to X, Y, Z or W, and the
last of the PRNG's bytes sets SEEDED. -/
def seedByte (b : Block) (k : Nat) (v : Byte) : Block :=
  let b :=
    if k = 0 then { b with x := v }
    else if k = 1 then { b with y := v }
    else if k = 2 then { b with z := v }
    else { b with w := v }
  if k + 1 = Config.prngBytes then { b with seeded := true } else b

/-- `absorb_byte(b)` (45_commands.md R111): take one padded-message byte. -/
def absorbByte (b : Block) (v : Byte) : Block :=
  bumpCount
    (if b.seeded = false then seedByte b (b.count.toNat % Config.prngBytes) v
    else
      let i := wsIndex b.count.toNat
      absorbStep (setPos b i) i v)

/-- What START does (45_commands.md R112). ARG and LATCH keep their values. -/
def startBlock (b : Block) : Block :=
  { b with
    ws := Vector.replicate Config.wsSize 0
    dig := Vector.replicate Config.digestSize 0
    x := 0, y := 0, z := 0, w := 0, out := 0
    count := 0, pos := 0, seeded := false
    errCode := 0, errCmd := 0
    phase := .absorbing }

/-- END's pad bytes (45_commands.md R114): `repeat p times: absorb_byte(p)`, p from COUNT mod 4. -/
def padBlock (b : Block) : Block :=
  let p := padLength b.count.toNat
  forRange 0 p (fun _ b => absorbByte b (BitVec.ofNat 8 p)) b

/-- What END does where it is legal (45_commands.md R114). -/
def endBlock (b : Block) : Block :=
  let b := padBlock b
  setPhase (fold (finalize (diffuse b b.pos))) .done

/-- START (45_commands.md R112). -/
def execStart (s : State) : Host.Outcome State Fault Refusal := perform .start startBlock s

/-- BYTE d (45_commands.md R113). -/
def execByte (d : Byte) (s : State) : Host.Outcome State Fault Refusal := perform (.byte d) (absorbByte · d) s

/-- END (45_commands.md R114). -/
def execEndMessage (s : State) : Host.Outcome State Fault Refusal := perform .endMessage endBlock s

end Sys2Proof.Machine
end

