-- ==== Sys2Proof/Machine/Dispatch.lean ====
section
/-! DEFINITION. One arm for each command: its meaning. -/

namespace Sys2Proof.Machine

def exec (i : Instr) (s : State) : Host.Outcome State Fault Refusal :=
  match i with
  | .start => Sys2Proof.Machine.execStart s
  | .byte d => Sys2Proof.Machine.execByte d s
  | .endMessage => Sys2Proof.Machine.execEndMessage s
  | .seed => Sys2Proof.Machine.execSeed s
  | .next d => Sys2Proof.Machine.execNext d s

end Sys2Proof.Machine
end

