-- ==== Sys2Proof/Machine/Window.lean ====
section
/-! DEFINITION. The register map (10_state.md R40 to R50) and the host accesses (20_memory.md R56 to R62). -/

namespace Sys2Proof.Machine

/-- The registers of the map (10_state.md R40). -/
inductive Reg where
  /-- CMD, offset 0x000. -/
  | cmd
  /-- ARG, 0x004. -/
  | arg
  /-- STATUS, 0x008. -/
  | status
  /-- ERRCMD, 0x00C. -/
  | errCmd
  /-- PRNG, 0x010. -/
  | prng
  /-- RESULT, 0x014. -/
  | result
  /-- COUNT, 0x018. -/
  | count
  /-- SEQ, 0x01C. -/
  | seq
  /-- WS[k], 0x100 + 4k. -/
  | ws (k : BitVec 5)
  /-- DIGEST[k], 0x200 + 4k. -/
  | digest (k : BitVec 3)
deriving DecidableEq, Repr

/-- The offset of a register from BASE (10_state.md R40). -/
def regOffset (r : Reg) : Offset :=
  match r with
  | .cmd => 0x000
  | .arg => 0x004
  | .status => 0x008
  | .errCmd => 0x00C
  | .prng => 0x010
  | .result => 0x014
  | .count => 0x018
  | .seq => 0x01C
  | .ws k => BitVec.ofNat 12 (0x100 + 4 * k.toNat)
  | .digest k => BitVec.ofNat 12 (0x200 + 4 * k.toNat)

/-- The register at an offset, none where the offset is misaligned or unmapped (10_state.md R40, 20_memory.md R57 (b)
and (c)). -/
def regAt (off : Offset) : Option Reg :=
  let n := off.toNat
  if n % 4 ≠ 0 then none
  else if n = 0x000 then some .cmd
  else if n = 0x004 then some .arg
  else if n = 0x008 then some .status
  else if n = 0x00C then some .errCmd
  else if n = 0x010 then some .prng
  else if n = 0x014 then some .result
  else if n = 0x018 then some .count
  else if n = 0x01C then some .seq
  else if 0x100 ≤ n ∧ n ≤ 0x17C then some (.ws (BitVec.ofNat 5 ((n - 0x100) / 4)))
  else if 0x200 ≤ n ∧ n ≤ 0x21C then some (.digest (BitVec.ofNat 3 ((n - 0x200) / 4)))
  else none

/-- CMD and ARG are the two registers a host may write (10_state.md R40, 20_memory.md R57 (d)). -/
def regWritable (r : Reg) : Bool :=
  match r with
  | .cmd => true
  | .arg => true
  | .status => false
  | .errCmd => false
  | .prng => false
  | .result => false
  | .count => false
  | .seq => false
  | .ws _ => false
  | .digest _ => false

/-- What a read of a register returns (10_state.md R41 to R50). -/
def readReg (b : Block) (r : Reg) : Word :=
  match r with
  | .cmd => 0
  | .arg => b.arg
  | .status => statusWord b
  | .errCmd => b.errCmd
  | .prng => packBytes b.x b.y b.z b.w
  | .result => b.out.setWidth 32
  | .count => b.count
  | .seq => seqWord b
  | .ws k =>
    let i := 4 * k.toNat
    packBytes (wsGet b (wsIndex i)) (wsGet b (wsIndex (i + 1))) (wsGet b (wsIndex (i + 2))) (wsGet b (wsIndex (i + 3)))
  | .digest k =>
    let i := 4 * k.toNat
    packBytes (digGet b (BitVec.ofNat 5 i)) (digGet b (BitVec.ofNat 5 (i + 1))) (digGet b (BitVec.ofNat 5 (i + 2)))
      (digGet b (BitVec.ofNat 5 (i + 3)))

/-- The offset an access names. -/
def accessOffset (a : Access) : Offset :=
  match a with
  | .read _ off => off
  | .write _ off _ => off

/-- The width of an access in bytes. -/
def accessWidth (a : Access) : Nat :=
  match a with
  | .read n _ => n
  | .write n _ _ => n

/-- The access is a write. -/
def accessWrites (a : Access) : Bool :=
  match a with
  | .read _ _ => false
  | .write _ _ _ => true

/-- The conditions (a) to (d) of 20_memory.md R57 for a bus error. -/
def isBusError (a : Access) : Bool :=
  accessWidth a != Config.hostBytes
    || (accessOffset a).toNat % 4 != 0
    || (regAt (accessOffset a)).isNone
    || (accessWrites a && (regAt (accessOffset a)).any (fun r => !regWritable r))

/-- A bus access at the block (20_memory.md R57, R60, R61, R62): none where it stalls, else the block after it and the
bus's answer. A bus error is answered at once and changes nothing; so is a STATUS read; everything else waits for
LATCH to be empty (70_reset_and_hazards.md R141). -/
def busAccess (b : Block) (a : Access) : Option (Block × Response) :=
  if isBusError a then some (b, .busError (accessOffset a))
  else
    match a, regAt (accessOffset a) with
    | _, none => some (b, .busError (accessOffset a))
    | .read _ _, some .status => some (b, .data (statusWord b))
    | .read _ _, some r => if busy b then none else some (b, .data (readReg b r))
    | .write _ _ v, some .cmd => if busy b then none else some (fillLatch b v, .written)
    | .write _ _ v, some .arg => if busy b then none else some (setArg b v, .written)
    | .write _ off _, some _ => some (b, .busError off)

end Sys2Proof.Machine
end

