-- ==== Sys2Proof/Machine/Sequencer.lean ====
section
/-! DEFINITION. What one step of the machine is: a core step (45_commands.md R110) or a move of the host or of the reset
input (20_memory.md R60 to R62, 70_reset_and_hazards.md R138), and which of them happens (R141, R143). -/

namespace Sys2Proof.Machine

/-- The word that executes in the ERROR phase (60_exceptions.md R127). -/
def startWord : Word := 0x00000001

/-- The core step of 45_commands.md R110 on the latched word w. LATCH is emptied first: the step is atomic and no command
reads LATCH (DEDUCED, entry 8). -/
def coreStep (w : Word) (s : State) : Host.Outcome State Fault Refusal :=
  let s := s.mapBlock emptyLatch
  if s.block.phase = .error ∧ w ≠ startWord then .next s
  else
    match decode w with
    | .error e => .next (s.mapBlock (enterError e w))
    | .ok i => exec i s

/-- A move of the host or of the reset input: the oldest input takes place. None where there is no input or the access
stalls. A WAIT reads STATUS and stays while BUSY reads 1 (30_encoding.md R80). A reset sets the block to the table of
70_reset_and_hazards.md R138. -/
def hostMove (s : State) : Option State :=
  match s.inputs with
  | [] => none
  | .access a :: rest =>
    match busAccess s.block a with
    | none => none
    | some (b, r) => some { s with block := b, inputs := rest, responses := s.responses ++ [r] }
  | .wait :: rest =>
    some { s with
      inputs := if busy s.block then s.inputs else rest
      responses := s.responses ++ [.data (statusWord s.block)] }
  | .reset :: rest => some { s with block := Block.reset, inputs := rest }

/-- Who moves while LATCH is full: the head of `turns`, the core when there is none left (70_reset_and_hazards.md R143:
a core step that stays enabled eventually happens). -/
def turnOf (s : State) : Turn := s.turns.headD .core

/-- The state with the turn taken. -/
def takeTurn (s : State) : State := { s with turns := s.turns.tail }

/-- One step. LATCH empty: the host moves if it has anything to do, else nothing changes. LATCH full: the agent whose turn
it is, but the core where the host cannot move. -/
def sequence (s : State) : Host.Outcome State Fault Refusal :=
  match s.block.latch with
  | none => .next ((hostMove s).getD s)
  | some w =>
    match turnOf s, hostMove (takeTurn s) with
    | .host, some t => .next t
    | _, _ => coreStep w (takeTurn s)

/-- Where a command is fetched from: LATCH. The word is latched and the next turn is the core's. -/
def latchForCore (w : Word) (s : State) : State :=
  { s with block := fillLatch s.block w, turns := .core :: s.turns }

end Sys2Proof.Machine
end

