-- ==== Sys2Proof/Machine/Step.lean ====
section
/-! DEFINITION. The step function of the machine, and where the host of this package puts an instruction. -/

namespace Sys2Proof.Machine

/-- One step (Machine/Sequencer.lean). -/
def step (s : State) : Host.Outcome State Fault Refusal := sequence s

/-- The state whose next step executes the command word with the bits `w`: the word is in LATCH and the core has the
turn. It stands for the host's completed write to CMD (20_memory.md R60, entry 11). -/
def State.withFetchWord (s : State) (nbits w : Nat) : State := latchForCore (tableWord nbits w) s

end Sys2Proof.Machine
end

