-- ==== Sys2Proof/Machine/Assembler.lean ====
section
/-! DEFINITION. The host syntax of 30_encoding.md R79 and R80: the statements, the inputs each stands for, and the reading
of one line of text. The points of the text form that the spec leaves open are entry 16. -/

namespace Sys2Proof.Machine

/-- A statement or pseudo-instruction of 30_encoding.md R79 and R80. -/
inductive Stmt where
  | start
  | byte (b : Byte)
  | endMessage
  | seed
  | next (b : Byte)
  /-- `CMD w`, any word. -/
  | cmd (w : Word)
  | warg (v : Word)
  | rd (r : Reg)
  | wait
  | seedb (a b c d : Byte)
  | msg (m : List Byte)
  | hash (m : List Byte)
  | rddig
deriving DecidableEq, Repr

/-- `MemWrite(BASE+0x000, 4, w)` (30_encoding.md R79). -/
def writeCmd (w : Word) : Input := .access (.write 4 0x000 w)

/-- `MemWrite(BASE+0x004, 4, v)` (R79). -/
def writeArg (v : Word) : Input := .access (.write 4 0x004 v)

/-- `RD name`: `MemRead(BASE+off, 4)` (R79). -/
def readInput (r : Reg) : Input := .access (.read 4 (regOffset r))

/-- The bits `b << n` of a byte in a word (R79, R80). -/
def shiftedByte (b : Byte) (n : Nat) : Word := b.setWidth 32 <<< n

/-- `BYTE b` (R79). -/
def byteInput (b : Byte) : Input := writeCmd (0x00000002 ||| shiftedByte b 8)

/-- `MSG b0, ..., bn-1` (R80). -/
def msgInputs (m : List Byte) : List Input := m.map byteInput

/-- What a statement stands for (30_encoding.md R79), pseudo-instructions expanded (R80). -/
def stmtInputs (st : Stmt) : List Input :=
  match st with
  | .start => [writeCmd 0x00000001]
  | .byte b => [byteInput b]
  | .endMessage => [writeCmd 0x00000003]
  | .seed => [writeCmd 0x00000004]
  | .next b => [writeCmd (0x00000005 ||| shiftedByte b 8)]
  | .cmd w => [writeCmd w]
  | .warg v => [writeArg v]
  | .rd r => [readInput r]
  | .wait => [.wait]
  | .seedb a b c d =>
    [writeArg (shiftedByte d 24 ||| shiftedByte c 16 ||| shiftedByte b 8 ||| shiftedByte a 0), writeCmd 0x00000004]
  | .msg m => msgInputs m
  | .hash m => [writeCmd 0x00000001] ++ msgInputs m ++ [writeCmd 0x00000003, .wait]
  | .rddig => .wait :: (List.range 8).map (fun k => readInput (.digest (BitVec.ofNat 3 k)))

/-- A program is its statements in order. -/
def programInputs (p : List Stmt) : List Input := p.flatMap stmtInputs

/-- The words a line is made of. -/
inductive Token where
  /-- A mnemonic, a number or a register name. -/
  | word (cs : List Char)
  /-- The comma between operands. -/
  | comma
  /-- A quoted text. -/
  | text (cs : List Char)
deriving DecidableEq, Repr

/-- The word read so far, given in reverse. -/
def flushWord (acc : List Char) : List Token := if acc = [] then [] else [.word acc.reverse]

/-- The double quote, character 34. -/
def quoteChar : Char := Char.ofNat 34

/-- The tokens of a line. A semicolon starts a comment (30_encoding.md R79). The rest is the model's choice (DESIGN CHOICE,
entry 16): a semicolon inside a quoted text is text and starts no comment, blanks and tabs separate, and a text left open is
an error. `inText` says whether a quoted text is open. -/
def lexLine (acc : List Char) (inText : Bool) (cs : List Char) : Option (List Token) :=
  match inText, cs with
  | true, [] => none
  | true, c :: rest =>
    if c = quoteChar then (lexLine [] false rest).map (.text acc.reverse :: ·) else lexLine (c :: acc) true rest
  | false, [] => some (flushWord acc)
  | false, c :: rest =>
    if c = ';' then some (flushWord acc)
    else if c = ' ' ∨ c = '\t' then (lexLine [] false rest).map (flushWord acc ++ ·)
    else if c = ',' then (lexLine [] false rest).map (flushWord acc ++ [.comma] ++ ·)
    else if c = quoteChar then (lexLine [] true rest).map (flushWord acc ++ ·)
    else lexLine (c :: acc) false rest

/-- The value of a hexadecimal digit. -/
def hexDigit (c : Char) : Option Nat :=
  let n := c.toNat
  if 48 ≤ n ∧ n ≤ 57 then some (n - 48)
  else if 65 ≤ n ∧ n ≤ 70 then some (n - 55)
  else if 97 ≤ n ∧ n ≤ 102 then some (n - 87)
  else none

/-- The number with these digits, read on from `acc`; every digit is less than the base. -/
def readDigits (base : Nat) (acc : Nat) (cs : List Char) : Option Nat :=
  match cs with
  | [] => some acc
  | c :: rest =>
    match hexDigit c with
    | some v => if v < base then readDigits base (base * acc + v) rest else none
    | none => none

/-- "Numbers are decimal or `0x` hexadecimal" (30_encoding.md R79). -/
def readNumber (cs : List Char) : Option Nat :=
  match cs with
  | [] => none
  | ['0', 'x'] => none
  | '0' :: 'x' :: hex => readDigits 16 0 hex
  | dec => readDigits 10 0 dec

/-- The names of the registers that stand alone (10_state.md R40). -/
def regNames : List (List Char × Reg) :=
  [(['C', 'M', 'D'], .cmd), (['A', 'R', 'G'], .arg), (['S', 'T', 'A', 'T', 'U', 'S'], .status),
   (['E', 'R', 'R', 'C', 'M', 'D'], .errCmd), (['P', 'R', 'N', 'G'], .prng), (['R', 'E', 'S', 'U', 'L', 'T'], .result),
   (['C', 'O', 'U', 'N', 'T'], .count), (['S', 'E', 'Q'], .seq)]

/-- The index of an indexed name: a number below `bound` and the closing bracket. -/
def readIndex (bound : Nat) (cs : List Char) : Option Nat :=
  match cs.reverse with
  | ']' :: digits => (readNumber digits.reverse).filter (· < bound)
  | _ => none

/-- A register name, `WS[k]` or `DIGEST[k]` (30_encoding.md R79). -/
def readReg? (cs : List Char) : Option Reg :=
  match cs with
  | 'W' :: 'S' :: '[' :: rest => (readIndex 32 rest).map (fun k => .ws (BitVec.ofNat 5 k))
  | 'D' :: 'I' :: 'G' :: 'E' :: 'S' :: 'T' :: '[' :: rest => (readIndex 8 rest).map (fun k => .digest (BitVec.ofNat 3 k))
  | name => regNames.lookup name

/-- Numbers below `bound` separated by commas, none at all allowed (`MSG` of nothing, 30_encoding.md R80). -/
def readOperands (bound : Nat) (ts : List Token) : Option (List Nat) :=
  match ts with
  | [] => some []
  | [.word cs] => ((readNumber cs).filter (· < bound)).map ([·])
  | .word cs :: .comma :: t :: rest =>
    match (readNumber cs).filter (· < bound), readOperands bound (t :: rest) with
    | some v, some vs => some (v :: vs)
    | _, _ => none
  | _ => none

/-- The operand of `MSG` and `HASH`: bytes, or a text of ASCII characters (30_encoding.md R80, PRESUMED, entry 20). -/
def readMessage (ts : List Token) : Option (List Byte) :=
  match ts with
  | [.text cs] => if cs.all (fun c => c.toNat < 128) then some (cs.map (fun c => BitVec.ofNat 8 c.toNat)) else none
  | _ => (readOperands 256 ts).map (fun vs => vs.map (BitVec.ofNat 8 ·))

/-- One operand below `bound`. -/
def readOne (bound : Nat) (ts : List Token) : Option Nat :=
  match readOperands bound ts with
  | some [v] => some v
  | _ => none

/-- The mnemonics of 30_encoding.md R79 and R80. -/
inductive Keyword where
  | start | byte | endMessage | seed | next | cmd | warg | rd | wait | seedb | msg | hash | rddig
deriving DecidableEq, Repr

/-- The spelling of the mnemonics. -/
def keywords : List (List Char × Keyword) :=
  [(['S', 'T', 'A', 'R', 'T'], .start), (['B', 'Y', 'T', 'E'], .byte), (['E', 'N', 'D'], .endMessage),
   (['S', 'E', 'E', 'D'], .seed), (['N', 'E', 'X', 'T'], .next), (['C', 'M', 'D'], .cmd), (['W', 'A', 'R', 'G'], .warg),
   (['R', 'D'], .rd), (['W', 'A', 'I', 'T'], .wait), (['S', 'E', 'E', 'D', 'B'], .seedb), (['M', 'S', 'G'], .msg),
   (['H', 'A', 'S', 'H'], .hash), (['R', 'D', 'D', 'I', 'G'], .rddig)]

/-- A statement without operands. -/
def noOperands (st : Stmt) (ts : List Token) : Option Stmt := if ts = [] then some st else none

/-- The statement with a mnemonic and its operands. -/
def readStmt (k : Keyword) (ts : List Token) : Option Stmt :=
  match k with
  | .start => noOperands .start ts
  | .byte => (readOne 256 ts).map (fun v => .byte (BitVec.ofNat 8 v))
  | .endMessage => noOperands .endMessage ts
  | .seed => noOperands .seed ts
  | .next => (readOne 256 ts).map (fun v => .next (BitVec.ofNat 8 v))
  | .cmd => (readOne (2 ^ 32) ts).map (fun v => .cmd (BitVec.ofNat 32 v))
  | .warg => (readOne (2 ^ 32) ts).map (fun v => .warg (BitVec.ofNat 32 v))
  | .rd =>
    match ts with
    | [.word cs] => (readReg? cs).map (.rd ·)
    | _ => none
  | .wait => noOperands .wait ts
  | .seedb =>
    match readOperands 256 ts with
    | some [a, b, c, d] => some (.seedb (BitVec.ofNat 8 a) (BitVec.ofNat 8 b) (BitVec.ofNat 8 c) (BitVec.ofNat 8 d))
    | _ => none
  | .msg => (readMessage ts).map (.msg ·)
  | .hash => (readMessage ts).map (.hash ·)
  | .rddig => noOperands .rddig ts

/-- One line of a host program (30_encoding.md R79): at most one statement; none where the line is not of the syntax. -/
def readLine (cs : List Char) : Option (List Stmt) :=
  match lexLine [] false cs with
  | none => none
  | some [] => some []
  | some (.word name :: ts) =>
    match keywords.lookup name with
    | some k => (readStmt k ts).map ([·])
    | none => none
  | some _ => none

/-- A host program, line by line. -/
def readProgram (lines : List (List Char)) : Option (List Stmt) :=
  match lines with
  | [] => some []
  | l :: rest =>
    match readLine l, readProgram rest with
    | some a, some b => some (a ++ b)
    | _, _ => none

end Sys2Proof.Machine
end

