-- ==== Sys2Proof/Machine/Platform.lean ====
section
/-! DEFINITION. A platform: N_INSTANCES instances of the block, each at its own BASE (60_exceptions.md R135, 00_scope.md
R17, 20_memory.md R64). BASE and N_INSTANCES are arguments here (10_state.md R25); `step` is one instance's. -/

namespace Sys2Proof.Machine

/-- One instance and the address of its window. -/
structure Instance where
  /-- BASE of this instance (00_scope.md R17). -/
  base : Nat
  /-- The instance. -/
  state : State
deriving DecidableEq, Repr

/-- The instances of a platform. -/
structure Platform where
  /-- The instances; their number is N_INSTANCES. -/
  instances : List Instance
deriving DecidableEq, Repr

/-- At least one instance, every BASE 4 KiB aligned, no two windows the same (R17, R64, R135). -/
def platformWf (p : Platform) : Bool :=
  !p.instances.isEmpty
    && p.instances.all (fun i => i.base % Config.windowBytes == 0)
    && decide (p.instances.map (·.base)).Nodup

/-- The address lies in the 4 KiB window of the instance (10_state.md R40). -/
def inWindow (addr : Nat) (i : Instance) : Bool := decide (i.base ≤ addr ∧ addr < i.base + Config.windowBytes)

/-- A host access by bus address, at the instance whose window holds the address: it becomes that instance's last
input. The offset is the address less BASE (R40). An address in no window is outside the spec (entry 6). Every instance has its own
inputs, so an access stalled at one instance does not hold its host's later accesses to another: R66 orders accesses at one
block's interface only, and across instances that is the model's choice (DESIGN CHOICE, entry 21). -/
def platformAccess (p : Platform) (addr : Nat) (mk : Offset → Access) : Host.Outcome Platform Fault Refusal :=
  match p.instances.findIdx? (inWindow addr) with
  | none => .fault (.noBlockAt addr)
  | some k =>
    .next ⟨p.instances.modify k (fun i =>
      { i with state := { i.state with
          inputs := i.state.inputs ++ [.access (mk (BitVec.ofNat 12 (addr - i.base)))] } })⟩

/-- A step of instance k, by its own core agent (60_exceptions.md R135); nothing where there is no such instance. -/
def platformStep (p : Platform) (k : Nat) : Host.Outcome Platform Fault Refusal :=
  match p.instances[k]? with
  | none => .next p
  | some i =>
    match step i.state with
    | .next t => .next ⟨p.instances.set k { i with state := t }⟩
    | .fault r => .fault r
    | .refused r => .refused r

/-- The platform after reset: every instance in the reset state, each at its BASE (R135: each leaves reset in IDLE). -/
def platformReset (bases : List Nat) : Platform := ⟨bases.map (fun b => ⟨b, State.reset⟩)⟩

end Sys2Proof.Machine
end

