-- ==== Sys2Proof/Safety.lean ====
section
/-! DEFINITION. The terms in which claims speak of runs: consistent states, quiescent states, valid digests, and the
commands of a message. -/

namespace Sys2Proof.Machine

/-- The working state is all zero. -/
abbrev wsClear (b : Block) : Prop := ∀ i : WsIndex, wsGet b i = 0

/-- The digest is all zero. -/
abbrev digClear (b : Block) : Prop := ∀ i : BitVec 5, digGet b i = 0

/-- What the rules promise of every state the block can be in:
ERRCODE is 0 to 3, nonzero exactly in ERROR (10_state.md R36, 60_exceptions.md R121, R124), and ERRCMD is 0 with it (R37);
while SEEDED is 0, COUNT is in [0, 3] (R33), POS is 0 (R34) and no byte was folded (42_absorb.md R95);
once SEEDED, POS is the index of the last folded byte, or 0 after exactly four bytes (R34, 42_absorb.md R98);
dig is zero until an END (60_exceptions.md R125, 10_state.md R31); DONE means four bytes were taken (45_commands.md R114);
IDLE is the state before any START (R35). -/
structure Consistent (b : Block) : Prop where
  errCode_le : b.errCode.toNat ≤ 3
  error_iff : b.phase = .error ↔ b.errCode ≠ 0
  errCmd_zero : b.errCode = 0 → b.errCmd = 0
  unseeded_count : b.seeded = false → b.count.toNat < 4
  unseeded_pos : b.seeded = false → b.pos = 0
  unseeded_ws : b.seeded = false → wsClear b
  seeded_pos : b.seeded = true → b.pos = wsIndex (b.count.toNat + 127) ∨ (b.count = 4 ∧ b.pos = 0)
  absorbing_dig : b.phase = .absorbing → digClear b
  absorbing_out : b.phase = .absorbing → b.seeded = false → b.out = 0
  idle_fresh : b.phase = .idle → b.seeded = false ∧ b.count = 0 ∧ digClear b
  done_seeded : b.phase = .done → b.seeded = true

/-- Nothing is left to do: no input and no pending command. -/
def Quiescent (s : State) : Prop := s.inputs = [] ∧ s.block.latch = none

/-- dig is a digest (60_exceptions.md R125). -/
def DigestValid (b : Block) : Prop := b.phase = .done

/-- The core moves in the next step, if LATCH is full: it has the turn, or the host cannot move. -/
def CoreMoves (s : State) : Prop := turnOf s = .core ∨ hostMove (takeTurn s) = none

/-- The host or the reset input may move in the next step: LATCH is empty, or it has the turn. -/
def HostMay (s : State) : Prop := s.block.latch = none ∨ turnOf s = .host

/-- The turns left after a step of s: one is taken while LATCH is full. -/
def turnsAfter (s : State) : List Turn := if s.block.latch.isSome then s.turns.tail else s.turns

/-- The state in which a core step runs the command: the turn taken, LATCH emptied (45_commands.md R110). -/
def fetched (s : State) : State := (takeTurn s).mapBlock emptyLatch

/-- The next step is the reset input (70_reset_and_hazards.md R138). -/
def ResetTakesPlace (s : State) : Prop := HostMay s ∧ ∃ rest, s.inputs = .reset :: rest

/-- The next step executes the command word w. -/
def Executes (s : State) (w : Word) : Prop := s.block.latch = some w ∧ CoreMoves s

/-- The `ok` entries of 30_encoding.md R78 for the phases other than ERROR, where only START is legal. -/
def LegalIn (i : Instr) (p : Phase) : Prop :=
  match i with
  | .start => True
  | .byte _ => p = .absorbing
  | .endMessage => p = .absorbing
  | .seed => p = .idle ∨ p = .done
  | .next _ => p = .idle ∨ p = .done

/-- The surroundings of the block (inputs, turns, responses) are the same in both states. -/
def SameHost (s t : State) : Prop := t.inputs = s.inputs ∧ t.turns = s.turns ∧ t.responses = s.responses

/-- t of 40_prng.md R85, as bytes: `X ^ d ^ ((X << 3) & 0xFF)`. -/
def mixLaw (x d : Byte) : Byte := x ^^^ d ^^^ (x <<< 3)

/-- The new W of 40_prng.md R85, as bytes: `W ^ (W >> 1) ^ t ^ ((t << 2) & 0xFF)`. -/
def nextLaw (x w d : Byte) : Byte := w ^^^ (w >>> 1) ^^^ mixLaw x d ^^^ (mixLaw x d <<< 2)

/-- b goes to c by `ws[i] <- ws[i] ^ prng_next(d)` (42_absorb.md R93, R94, 43_finalize.md R100) and nothing else. -/
def XorsNext (i : WsIndex) (d : Byte) (b c : Block) : Prop :=
  let n := nextLaw b.x b.w d
  c = { b with x := b.y, y := b.z, z := b.w, w := n, out := n, ws := c.ws } ∧
  wsGet c i = wsGet b i ^^^ n ∧ ∀ j, j ≠ i → wsGet c j = wsGet b j

/-- The index of round r of a diffusion pass from pos0 (42_absorb.md R94). -/
def diffuseIndex (pos0 : WsIndex) (r : Nat) : WsIndex := BitVec.ofNat 7 ((pos0.toNat + r) % 128)

/-- b goes to c by the 256 rounds of a diffusion pass from pos0 (42_absorb.md R94): the PRNG's input in each round is the
byte at the round's index, as it stands before that round. `st r` is the block before round r. -/
def Diffuses (pos0 : WsIndex) (b c : Block) : Prop :=
  ∃ st : Nat → Block, st 0 = b ∧ st 256 = c ∧
    ∀ r, r < 256 → XorsNext (diffuseIndex pos0 r) (wsGet (st r) (diffuseIndex pos0 r)) (st r) (st (r + 1))

/-- b goes to c by pass q of finalize (43_finalize.md R100): X, Y, Z, W take ws[4q], ws[4q+1], ws[4q+2], ws[4q+3], then
prng_next(0) goes into ws[0], ..., ws[127] in increasing order. `st j` is the block before index j. -/
def FinalPass (q : Nat) (b c : Block) : Prop :=
  ∃ st : Nat → Block,
    st 0 = { b with
      x := wsGet b (BitVec.ofNat 7 (4 * q)), y := wsGet b (BitVec.ofNat 7 (4 * q + 1))
      z := wsGet b (BitVec.ofNat 7 (4 * q + 2)), w := wsGet b (BitVec.ofNat 7 (4 * q + 3)) } ∧
    st 128 = c ∧ ∀ j, j < 128 → XorsNext (BitVec.ofNat 7 j) 0 (st j) (st (j + 1))

/-- b goes to c by the 32 passes of finalize (43_finalize.md R100). `st q` is the block before pass q. -/
def Finalizes (b c : Block) : Prop :=
  ∃ st : Nat → Block, st 0 = b ∧ st 32 = c ∧ ∀ q, q < 32 → FinalPass q (st q) (st (q + 1))

/-- `ws[k] + ws[k+32] + ws[k+64] + ws[k+96]` of 44_fold.md R106. -/
def columnSum (b : Block) (k : Nat) : Nat :=
  (wsGet b (wsIndex k)).toNat + (wsGet b (wsIndex (k + 32))).toNat + (wsGet b (wsIndex (k + 64))).toNat
    + (wsGet b (wsIndex (k + 96))).toNat

/-- The block after it has taken the bytes m one after the other (45_commands.md R111). -/
def takeBytes (m : List Byte) (b : Block) : Block := m.foldl absorbByte b

/-- The POS that 42_absorb.md R98 gives for a padded message of length L. -/
def posAfter (L : Nat) : WsIndex := if L = 4 then 0 else wsIndex (L - 1)

/-- The commands of a computation over m (45_commands.md R117). -/
def messageCommands (m : List Byte) : List Instr := .start :: (m.map (.byte ·)) ++ [.endMessage]

/-- What 45_commands.md R117 says of the block after the last core step of a computation over m. -/
structure HashDone (m : List Byte) (b : Block) : Prop where
  phase : b.phase = .done
  errCode : b.errCode = 0
  errCmd : b.errCmd = 0
  dig : b.dig = hashMessage m
  ws : b.ws = (hashBlock m Block.reset).ws
  count : b.count = BitVec.ofNat 32 (pad m).length
  seeded : b.seeded = true
  pos : b.pos = posAfter (pad m).length

/-- The word of an input that is a write to CMD (20_memory.md R60); a write of another width is a bus error. -/
def cmdWrite (i : Input) : Option Word :=
  match i with
  | .access (.write n off v) => if n = 4 ∧ off = 0x000 then some v else none
  | .access (.read _ _) => none
  | .wait => none
  | .reset => none

/-- The input does not get past a pending command: a WAIT, or an access that stalls (70_reset_and_hazards.md R141). -/
def HeldWhileBusy (i : Input) : Prop :=
  i = .wait ∨ ∃ a, i = .access a ∧ ∀ b : Block, b.latch ≠ none → busAccess b a = none

/-- The meanings of a list of commands one after the other, stopping where one stops. -/
def execAll (is : List Instr) (s : State) : Host.Outcome State Fault Refusal :=
  match is with
  | [] => .next s
  | i :: rest =>
    match exec i s with
    | .next t => execAll rest t
    | .fault r => .fault r
    | .refused r => .refused r

/-- The machine run for k steps. -/
def run (k : Nat) (s : State) : Host.Outcome State Fault Refusal :=
  match k with
  | 0 => .next s
  | k + 1 =>
    match step s with
    | .next t => run k t
    | .fault r => .fault r
    | .refused r => .refused r

end Sys2Proof.Machine
end

