-- ==== Sys2Proof/Certificates/Slice0/Obligations.lean ====
section
/-! DEFINITION. The statements for the provers. -/

open Sys2Proof Sys2Proof.Machine

/-! ### Encoding -/

/-- One word of each command, written out from the table of 30_encoding.md R75 and the programs of
95_test_vectors.md. -/
def Obligations.SpecWordsDecode : Prop :=
  decode 0b00000000000000000000000000000001 = .ok .start ∧
  decode 0b00000000000000000110000100000010 = .ok (.byte 0x61) ∧
  decode 0b00000000000000000000000000000011 = .ok .endMessage ∧
  decode 0b00000000000000000000000000000100 = .ok .seed ∧
  decode 0b00000000000000001001101000000101 = .ok (.next 0x9A)

/-- Every command's word decodes to the command, and is well formed. -/
def Obligations.DecodeOfEncodeIsIdentity : Prop :=
  ∀ i : Instr, decode (encode i) = .ok i ∧ (commandFields (encode i)).wellFormed = true

/-- A word that decodes is the word of the command it decodes to: no bit is dropped. With it, the words that decode are
exactly the well-formed ones. -/
def Obligations.EncodeOfDecodeIsIdentity : Prop :=
  (∀ (w : Word) (i : Instr), decode w = .ok i → encode i = w) ∧
  (∀ w : Word, (commandFields w).wellFormed = true ↔ ∃ i, decode w = .ok i)

/-- 30_encoding.md R75: the match and mask of each row select exactly its command, with DATA its operand; the unassigned
opcodes are illegal; no word matches two rows. -/
def Obligations.MatchMaskSelectsCommand : Prop :=
  (∀ w : Word, w &&& 0xFFFFFFFF = 0x00000001 ↔ decode w = .ok .start) ∧
  (∀ (w : Word) (d : Byte), w &&& 0xFFFF00FF = 0x00000002 ∧ w.extractLsb' 8 8 = d ↔ decode w = .ok (.byte d)) ∧
  (∀ w : Word, w &&& 0xFFFFFFFF = 0x00000003 ↔ decode w = .ok .endMessage) ∧
  (∀ w : Word, w &&& 0xFFFFFFFF = 0x00000004 ↔ decode w = .ok .seed) ∧
  (∀ (w : Word) (d : Byte), w &&& 0xFFFF00FF = 0x00000005 ∧ w.extractLsb' 8 8 = d ↔ decode w = .ok (.next d)) ∧
  (∀ w : Word, w.extractLsb' 16 16 = 0 → (w.extractLsb' 0 8 = 0 ∨ 6 ≤ (w.extractLsb' 0 8).toNat) →
    decode w = .error .illegalOpcode) ∧
  (∀ (w : Word) (i j : Instr), w &&& rowMask i = rowMatch i → w &&& rowMask j = rowMatch j → rowMatch i = rowMatch j)

/-- 30_encoding.md R76: what the decoder answers on every word, the tests in their order. -/
def Obligations.DecoderFollowsTestOrder : Prop :=
  ∀ w : Word,
    let rsv := w.extractLsb' 16 16
    let op := (w.extractLsb' 0 8).toNat
    let d : Byte := w.extractLsb' 8 8
    (rsv ≠ 0 → decode w = .error .reservedBits) ∧
    (rsv = 0 → ¬ (1 ≤ op ∧ op ≤ 5) → decode w = .error .illegalOpcode) ∧
    (rsv = 0 → op = 1 ∨ op = 3 ∨ op = 4 → d ≠ 0 → decode w = .error .reservedBits) ∧
    (rsv = 0 → op = 1 → d = 0 → decode w = .ok .start) ∧
    (rsv = 0 → op = 2 → decode w = .ok (.byte d)) ∧
    (rsv = 0 → op = 3 → d = 0 → decode w = .ok .endMessage) ∧
    (rsv = 0 → op = 4 → d = 0 → decode w = .ok .seed) ∧
    (rsv = 0 → op = 5 → decode w = .ok (.next d))

/-! ### The PRNG core -/

/-- 40_prng.md R81: prng_seed sets X, Y, Z, W and nothing else; OUT is not written. -/
def Obligations.SeedSetsPrngState : Prop :=
  ∀ (b : Block) (p q r t : Byte), prngSeed b p q r t = { b with x := p, y := q, z := r, w := t }

/-- 40_prng.md R83: masking the shifted value before the XOR or after it gives the same t. -/
def Obligations.MaskOrderDoesNotMatter : Prop :=
  ∀ x d : Byte,
    ((x.toNat ^^^ d.toNat) ^^^ (x.toNat <<< 3)) &&& 0xFF
        = (x.toNat ^^^ d.toNat ^^^ ((x.toNat <<< 3) &&& 0xFF)) &&& 0xFF ∧
    (prngMix x d).toNat = (x.toNat ^^^ d.toNat ^^^ ((x.toNat <<< 3) &&& 0xFF)) &&& 0xFF

/-- 40_prng.md R84: from (0, 0, 0, 0), input 0 yields 0 forever. -/
def Obligations.ZeroPrngStateIsFixed : Prop :=
  ∀ b : Block,
    let s : Nat → Block := fun n => forRange 0 n (fun _ c => prngNext c 0) (prngSeed b 0 0 0 0)
    prngMix 0 0 = 0 ∧
      ∀ n, (s n).x = 0 ∧ (s n).y = 0 ∧ (s n).z = 0 ∧ (s n).w = 0 ∧ prngByte (s n) 0 = 0 ∧ (s (n + 1)).out = 0

/-- 40_prng.md R85: prng_next is the stated formula on bytes, and linear over GF(2) in its new state and its output. -/
def Obligations.PrngNextIsLinear : Prop :=
  (∀ (b : Block) (d : Byte), prngMix b.x d = mixLaw b.x d ∧ (prngNext b d).w = nextLaw b.x b.w d) ∧
  (∀ (a b c : Block) (d e : Byte),
    c.x = a.x ^^^ b.x → c.y = a.y ^^^ b.y → c.z = a.z ^^^ b.z → c.w = a.w ^^^ b.w →
    (prngNext c (d ^^^ e)).x = (prngNext a d).x ^^^ (prngNext b e).x ∧
    (prngNext c (d ^^^ e)).y = (prngNext a d).y ^^^ (prngNext b e).y ∧
    (prngNext c (d ^^^ e)).z = (prngNext a d).z ^^^ (prngNext b e).z ∧
    (prngNext c (d ^^^ e)).w = (prngNext a d).w ^^^ (prngNext b e).w ∧
    (prngNext c (d ^^^ e)).out = (prngNext a d).out ^^^ (prngNext b e).out)

/-- 40_prng.md R87: prng_next reads only X, Y, Z, W and d, and writes only X, Y, Z, W and OUT. -/
def Obligations.PrngNextFootprint : Prop :=
  ∀ (b c : Block) (d : Byte),
    (b.x = c.x → b.y = c.y → b.z = c.z → b.w = c.w →
      (prngNext b d).x = (prngNext c d).x ∧ (prngNext b d).y = (prngNext c d).y ∧
      (prngNext b d).z = (prngNext c d).z ∧ (prngNext b d).w = (prngNext c d).w ∧
      (prngNext b d).out = (prngNext c d).out) ∧
    prngNext b d =
      { b with
        x := (prngNext b d).x, y := (prngNext b d).y, z := (prngNext b d).z, w := (prngNext b d).w
        out := (prngNext b d).out }

/-! ### Padding, absorption, finalization, folding -/

/-- 41_padding.md R89: the length, the prefix and the pad bytes of a padded message. -/
def Obligations.PadShape : Prop :=
  ∀ m : List Byte, ∃ p : Nat,
    1 ≤ p ∧ p ≤ 4 ∧ (pad m).length = m.length + p ∧ (pad m).length = 4 * (m.length / 4 + 1) ∧ 4 ≤ (pad m).length ∧
    (pad m).take m.length = m ∧ (pad m).drop m.length = List.replicate p (BitVec.ofNat 8 p)

/-- 41_padding.md R91: after START and the message bytes, COUNT mod 4 is the message length mod 4, and END's padding takes
exactly the pad bytes of pad(m). For a message of any length, COUNT's wrap included. -/
def Obligations.EndAppendsThePadBytes : Prop :=
  ∀ (b : Block) (m : List Byte),
    let c := takeBytes m (startBlock b)
    c.count.toNat % 4 = m.length % 4 ∧ padBlock c = takeBytes ((pad m).drop m.length) c

/-- 10_state.md R33: SEEDED is 0 until the fourth byte after START has been taken and 1 from then until the next START
(or reset); while it is 0, COUNT is in [0, 3]; it is 0 at reset. -/
def Obligations.SeededFromTheFourthByte : Prop :=
  (∀ (b : Block) (m : List Byte),
    (takeBytes m (startBlock b)).seeded = decide (4 ≤ m.length) ∧
    (m.length < 4 → (takeBytes m (startBlock b)).count.toNat = m.length)) ∧
  (∀ s t : State, step s = .next t → s.block.seeded = true → ¬ Executes s 0x00000001 → ¬ ResetTakesPlace s →
    t.block.seeded = true) ∧
  (∀ s t : State, Consistent s.block → step s = .next t → t.block.seeded = false → t.block.count.toNat ≤ 3) ∧
  State.reset.block.seeded = false

/-- 42_absorb.md R92 and R99: taking the bytes of a padded message one at a time leaves ws, the PRNG bytes and POS as
absorb has them before its diffusion pass, so that diffusing them gives absorb. And the diffusion pass, from every block and
every starting index (42_absorb.md R94): its 256 rounds, the first at pos0, and each index visited at exactly two rounds, r
and r + 128. -/
def Obligations.StreamedBytesAbsorbAsBatch : Prop :=
  (∀ (b c : Block) (m : List Byte),
    let s := takeBytes (pad m) (startBlock b)
    let a := absorb (pad m) c
    let d := diffuse s s.pos
    d.ws = a.ws ∧ d.x = a.x ∧ d.y = a.y ∧ d.z = a.z ∧ d.w = a.w ∧ s.pos = posAfter (pad m).length) ∧
  (∀ (b : Block) (pos0 : WsIndex), Diffuses pos0 b (diffuse b pos0)) ∧
  (∀ pos0 i : WsIndex, diffuseIndex pos0 0 = pos0 ∧
    ∃ r, r < 128 ∧ ∀ k, k < 256 → (diffuseIndex pos0 k = i ↔ k = r ∨ k = r + 128))

/-- 43_finalize.md R102: the result of finalize depends only on ws at entry. And, for every ws, what finalize does, pass by
pass (43_finalize.md R100). -/
def Obligations.FinalizeReadsOnlyWorkingState : Prop :=
  (∀ b c : Block, b.ws = c.ws →
    (finalize b).ws = (finalize c).ws ∧ (finalize b).x = (finalize c).x ∧ (finalize b).y = (finalize c).y ∧
    (finalize b).z = (finalize c).z ∧ (finalize b).w = (finalize c).w ∧ (finalize b).out = (finalize c).out) ∧
  (∀ b : Block, Finalizes b (finalize b))

/-- 43_finalize.md R103: from an all-zero ws, every reseed is (0, 0, 0, 0) (ws is all zero before every pass) and every
prng_next(0) of every pass returns 0; ws is all zero at exit, and X, Y, Z, W and OUT are 0. -/
def Obligations.FinalizeKeepsZero : Prop :=
  ∀ b : Block, wsClear b →
    (∀ q, q ≤ 32 →
      let c := forRange 0 q finalizePass b
      wsClear c ∧
      ∀ j, j ≤ 128 → prngByte (forRange 0 j (fun j d => xorNext d (wsIndex j) 0) (prngSeed c 0 0 0 0)) 0 = 0) ∧
    wsClear (finalize b) ∧ (finalize b).x = 0 ∧ (finalize b).y = 0 ∧ (finalize b).z = 0 ∧ (finalize b).w = 0 ∧
    (finalize b).out = 0

/-- 43_finalize.md R104: finalize is linear over GF(2) in ws, and absorb in the padded message. -/
def Obligations.FinalizeAndAbsorbAreLinear : Prop :=
  (∀ a b c : Block, (∀ i, wsGet c i = wsGet a i ^^^ wsGet b i) →
    ∀ i, wsGet (finalize c) i = wsGet (finalize a) i ^^^ wsGet (finalize b) i) ∧
  (∀ (p q : List Byte) (a b c : Block), p.length = q.length → 4 ≤ p.length → p.length % 4 = 0 →
    ∀ i, wsGet (absorb (List.zipWith (· ^^^ ·) p q) c) i = wsGet (absorb p a) i ^^^ wsGet (absorb q b) i)

/-- 44_fold.md R106: each digest byte is the running sum of the column sums, modulo 256. -/
def Obligations.FoldIsPrefixSum : Prop :=
  ∀ (b : Block) (i : BitVec 5),
    (digGet (fold b) i).toNat = ((List.range (i.toNat + 1)).map (columnSum b)).sum % 256 ∧
    (i ≠ 0 → digGet (fold b) i - digGet (fold b) (i - 1) = BitVec.ofNat 8 (columnSum b i.toNat))

/-- 44_fold.md R108: the digest hash(m) depends on m alone, not on the state before. -/
def Obligations.HashDependsOnTheMessageAlone : Prop :=
  ∀ (b : Block) (m : List Byte), (hashBlock m b).dig = hashMessage m

/-! ### What each command does (and that it completes) -/

/-- START (45_commands.md R112) completes in every phase; ARG, LATCH and the surroundings keep their values. -/
def Obligations.StartBeginsComputation : Prop :=
  ∀ s : State, exec .start s = .next { s with block := { s.block with
    ws := Vector.replicate 128 0, dig := Vector.replicate 32 0
    x := 0, y := 0, z := 0, w := 0, out := 0
    count := 0, pos := 0, seeded := false, errCode := 0, errCmd := 0, phase := .absorbing } }

/-- BYTE (45_commands.md R111, R113) completes in ABSORBING: the first four bytes fill X, Y, Z, W, and the fourth sets
SEEDED. -/
def Obligations.ByteFillsTheSeed : Prop :=
  ∀ (d : Byte) (s : State), s.block.phase = .absorbing → s.block.seeded = false →
    (s.block.count.toNat % 4 = 0 →
      exec (.byte d) s = .next { s with block := { s.block with x := d, count := s.block.count + 1 } }) ∧
    (s.block.count.toNat % 4 = 1 →
      exec (.byte d) s = .next { s with block := { s.block with y := d, count := s.block.count + 1 } }) ∧
    (s.block.count.toNat % 4 = 2 →
      exec (.byte d) s = .next { s with block := { s.block with z := d, count := s.block.count + 1 } }) ∧
    (s.block.count.toNat % 4 = 3 →
      exec (.byte d) s =
        .next { s with block := { s.block with w := d, seeded := true, count := s.block.count + 1 } })

/-- BYTE (45_commands.md R111, R113) completes in ABSORBING once SEEDED: the byte drives the PRNG, the output is XORed
into ws at COUNT mod 128, and POS takes that index. -/
def Obligations.ByteFoldsIntoWorkingState : Prop :=
  ∀ (d : Byte) (s : State), s.block.phase = .absorbing → s.block.seeded = true →
    let p : WsIndex := BitVec.ofNat 7 (s.block.count.toNat % 128)
    let n := nextLaw s.block.x s.block.w d
    ∃ t, exec (.byte d) s = .next t ∧
      t = { s with block := { s.block with
        x := s.block.y, y := s.block.z, z := s.block.w, w := n, out := n
        pos := p, count := s.block.count + 1, ws := t.block.ws } } ∧
      wsGet t.block p = wsGet s.block p ^^^ n ∧
      ∀ j, j ≠ p → wsGet t.block j = wsGet s.block j

/-- END (45_commands.md R114) completes in ABSORBING: it takes the pad bytes, diffuses from POS
(42_absorb.md R94), finalizes (43_finalize.md R100) and folds (44_fold.md R106). -/
def Obligations.EndProducesTheDigest : Prop :=
  ∀ s : State, s.block.phase = .absorbing →
    let p := 4 - s.block.count.toNat % 4
    let padded := takeBytes (List.replicate p (BitVec.ofNat 8 p)) s.block
    let diffused := diffuse padded padded.pos
    let final := finalize diffused
    ∃ t, exec .endMessage s = .next t ∧ SameHost s t ∧
      Diffuses padded.pos padded diffused ∧ Finalizes diffused final ∧
      t.block.phase = .done ∧ t.block.ws = final.ws ∧
      t.block.x = final.x ∧ t.block.y = final.y ∧ t.block.z = final.z ∧ t.block.w = final.w ∧
      t.block.out = t.block.w ∧
      (∀ i, (digGet t.block i).toNat = ((List.range (i.toNat + 1)).map (columnSum t.block)).sum % 256) ∧
      t.block.count = s.block.count + BitVec.ofNat 32 p ∧ t.block.count.toNat % 4 = 0 ∧
      t.block.pos = padded.pos ∧ t.block.seeded = padded.seeded ∧ (Consistent s.block → t.block.seeded = true) ∧
      t.block.errCode = s.block.errCode ∧ t.block.errCmd = s.block.errCmd ∧ t.block.arg = s.block.arg ∧
      t.block.latch = s.block.latch

/-- SEED (45_commands.md R115) completes in IDLE and in DONE: X, Y, Z, W take the bytes of ARG. -/
def Obligations.SeedLoadsArg : Prop :=
  ∀ s : State, s.block.phase = .idle ∨ s.block.phase = .done →
    exec .seed s = .next { s with block := { s.block with
      x := s.block.arg.extractLsb' 0 8, y := s.block.arg.extractLsb' 8 8
      z := s.block.arg.extractLsb' 16 8, w := s.block.arg.extractLsb' 24 8 } }

/-- NEXT (45_commands.md R116) completes in IDLE and in DONE: the PRNG runs once, and OUT takes the new W. -/
def Obligations.NextRunsThePrngOnce : Prop :=
  ∀ (d : Byte) (s : State), s.block.phase = .idle ∨ s.block.phase = .done →
    exec (.next d) s = .next { s with block := { s.block with
      x := s.block.y, y := s.block.z, z := s.block.w
      w := nextLaw s.block.x s.block.w d, out := nextLaw s.block.x s.block.w d } }

/-! ### Frames -/

/-- START leaves ARG, LATCH and the surroundings as they are. -/
def Obligations.StartFrame : Prop :=
  ∀ s t : State, exec .start s = .next t →
    SameHost s t ∧ t.block.arg = s.block.arg ∧ t.block.latch = s.block.latch

/-- BYTE stores to ws at COUNT mod 128 and nowhere else, and only once SEEDED in ABSORBING. Outside ABSORBING it changes
at most PHASE, ERRCODE and ERRCMD; in ABSORBING it leaves those as they are. -/
def Obligations.ByteFrame : Prop :=
  ∀ (d : Byte) (s t : State), exec (.byte d) s = .next t →
    SameHost s t ∧ t.block.arg = s.block.arg ∧ t.block.latch = s.block.latch ∧
    (∀ i, digGet t.block i = digGet s.block i) ∧
    (s.block.phase = .absorbing → s.block.seeded = true →
      ∀ a, a = wsIndex s.block.count.toNat → ∀ j, j ≠ a → wsGet t.block j = wsGet s.block j) ∧
    (s.block.phase ≠ .absorbing ∨ s.block.seeded = false →
      (∀ j, wsGet t.block j = wsGet s.block j) ∧ t.block.out = s.block.out ∧ t.block.pos = s.block.pos) ∧
    (s.block.phase ≠ .absorbing →
      t.block.x = s.block.x ∧ t.block.y = s.block.y ∧ t.block.z = s.block.z ∧ t.block.w = s.block.w ∧
      t.block.count = s.block.count ∧ t.block.seeded = s.block.seeded) ∧
    (s.block.phase = .absorbing →
      t.block.phase = .absorbing ∧ t.block.errCode = s.block.errCode ∧ t.block.errCmd = s.block.errCmd)

/-- END leaves ARG, LATCH and the surroundings as they are. Outside ABSORBING it changes at most PHASE, ERRCODE and
ERRCMD; in ABSORBING it leaves ERRCODE and ERRCMD as they are. -/
def Obligations.EndFrame : Prop :=
  ∀ s t : State, exec .endMessage s = .next t →
    SameHost s t ∧ t.block.arg = s.block.arg ∧ t.block.latch = s.block.latch ∧
    (s.block.phase ≠ .absorbing →
      t.block = { s.block with phase := t.block.phase, errCode := t.block.errCode, errCmd := t.block.errCmd } ∧
      (∀ j, wsGet t.block j = wsGet s.block j) ∧ ∀ i, digGet t.block i = digGet s.block i) ∧
    (s.block.phase = .absorbing →
      t.block.errCode = s.block.errCode ∧ t.block.errCmd = s.block.errCmd)

/-- SEED and NEXT store nothing: every byte of ws and dig, COUNT, POS, SEEDED, ARG, LATCH and the surroundings are as
before. SEED keeps OUT. Outside ABSORBING both keep PHASE, ERRCODE and ERRCMD; in ABSORBING and in ERROR both keep
X, Y, Z, W and OUT. -/
def Obligations.SeedAndNextFrame : Prop :=
  ∀ (i : Instr) (s t : State), (i = .seed ∨ ∃ d, i = .next d) → exec i s = .next t →
    SameHost s t ∧ (∀ j, wsGet t.block j = wsGet s.block j) ∧ (∀ j, digGet t.block j = digGet s.block j) ∧
    t.block.count = s.block.count ∧ t.block.pos = s.block.pos ∧ t.block.seeded = s.block.seeded ∧
    t.block.arg = s.block.arg ∧ t.block.latch = s.block.latch ∧ (i = .seed → t.block.out = s.block.out) ∧
    (s.block.phase ≠ .absorbing →
      t.block.phase = s.block.phase ∧ t.block.errCode = s.block.errCode ∧ t.block.errCmd = s.block.errCmd) ∧
    (s.block.phase = .absorbing ∨ s.block.phase = .error →
      t.block.x = s.block.x ∧ t.block.y = s.block.y ∧ t.block.z = s.block.z ∧ t.block.w = s.block.w ∧
      t.block.out = s.block.out)

/-! ### Command errors -/

/-- 30_encoding.md R78 and 60_exceptions.md R124: BYTE and END in IDLE or DONE, SEED and NEXT in ABSORBING, enter ERROR
with code 3 and the command's word, and change nothing else. -/
def Obligations.OutOfSequenceEntersError : Prop :=
  ∀ (i : Instr) (s : State), s.block.phase ≠ .error → ¬ LegalIn i s.block.phase →
    exec i s = .next { s with block := { s.block with phase := .error, errCode := 3, errCmd := encode i } }

/-- 60_exceptions.md R121, R124, R126: a word that does not decode, executed outside ERROR, enters ERROR with the code of
its error and the word itself; nothing else changes but LATCH, which is emptied. -/
def Obligations.UndecodableWordEntersError : Prop :=
  ∀ (s : State) (w : Word), Executes s w → s.block.phase ≠ .error →
    (decode w = .error .reservedBits →
      step s = .next { s with turns := s.turns.tail, block := { s.block with
        latch := none, phase := .error, errCode := 1, errCmd := w } }) ∧
    (decode w = .error .illegalOpcode →
      step s = .next { s with turns := s.turns.tail, block := { s.block with
        latch := none, phase := .error, errCode := 2, errCmd := w } }) ∧
    decode w ≠ .error .illegalSequence

/-- 60_exceptions.md R127: in ERROR every word but 0x00000001 is removed from LATCH without effect, and 0x00000001
executes START and leaves ERROR. -/
def Obligations.ErrorPhaseDiscards : Prop :=
  ∀ (s : State) (w : Word), Executes s w → s.block.phase = .error →
    (w ≠ 0x00000001 → step s = .next { s with turns := s.turns.tail, block := { s.block with latch := none } }) ∧
    (w = 0x00000001 → step s = exec .start (fetched s) ∧
      ∃ t, step s = .next t ∧ t.block.phase = .absorbing ∧ t.block.errCode = 0 ∧ t.block.errCmd = 0)

/-- 30_encoding.md R78: in which phases a decoded command executes, raises ILLEGAL_SEQUENCE or is discarded. -/
def Obligations.LegalityByPhase : Prop :=
  ∀ (s : State) (w : Word), Executes s w →
    (∀ i, decode w = .ok i → s.block.phase ≠ .error → LegalIn i s.block.phase →
      ∃ t, step s = .next t ∧ t.block.phase ≠ .error) ∧
    (∀ i, decode w = .ok i → s.block.phase ≠ .error → ¬ LegalIn i s.block.phase →
      ∃ t, step s = .next t ∧ t.block.phase = .error ∧ t.block.errCode = 3 ∧ t.block.errCmd = w) ∧
    (s.block.phase = .error → w = 0x00000001 → ∃ t, step s = .next t ∧ t.block.phase = .absorbing) ∧
    (s.block.phase = .error → w ≠ 0x00000001 →
      ∃ t, step s = .next t ∧ t.block = { s.block with latch := none })

/-! ### Steps -/

/-- A core step on a latched word that decodes runs the command on the state with LATCH emptied (45_commands.md R110). -/
def Obligations.StepRunsTheDecodedCommand : Prop :=
  ∀ (s : State) (w : Word) (i : Instr), Executes s w → decode w = .ok i → step s = exec i (fetched s)

/-- No step stops the machine. Of the core steps and the stalled accesses 60_exceptions.md R129 says so. The rest is the
model's choice: a bus error is a next state (log entry 3, DEDUCED; 20_memory.md R57 says that a model records a fault of the
host), and an idle step answers the same state (log entry 4, DESIGN CHOICE). -/
def Obligations.EveryStepHasANextState : Prop := ∀ s : State, ∃ t, step s = .next t

/-- Every step keeps the block consistent (10_state.md R31 to R37, 60_exceptions.md R121, R124, R125). -/
def Obligations.StepKeepsConsistency : Prop :=
  ∀ s t : State, Consistent s.block → step s = .next t → Consistent t.block

/-- The reset state is consistent. -/
def Obligations.ResetIsConsistent : Prop := Consistent State.reset.block

/-- 70_reset_and_hazards.md R138: the reset state, in which every register reads 0; and the reset input gives it from
every state, discarding a pending command. -/
def Obligations.ResetSetsEveryElement : Prop :=
  (State.reset.block = {
    x := 0, y := 0, z := 0, w := 0, out := 0, ws := Vector.replicate 128 0, dig := Vector.replicate 32 0
    count := 0, pos := 0, seeded := false, phase := .idle, errCode := 0, errCmd := 0, arg := 0, latch := none }) ∧
  (∀ r, readReg State.reset.block r = 0) ∧
  (∀ s : State, ResetTakesPlace s → ∃ t, step s = .next t ∧ t.block = State.reset.block)

/-- 10_state.md R35: IDLE is entered only by reset. -/
def Obligations.IdleOnlyByReset : Prop :=
  ∀ s t : State, step s = .next t → s.block.phase ≠ .idle → t.block.phase = .idle →
    ResetTakesPlace s ∧ t.block = Block.reset

/-- 60_exceptions.md R128: ERROR is left only by START or reset, and until then ERRCODE and ERRCMD keep the first error. -/
def Obligations.ErrorLeftOnlyByStartOrReset : Prop :=
  ∀ s t : State, step s = .next t → s.block.phase = .error → ¬ ResetTakesPlace s → ¬ Executes s 0x00000001 →
    t.block.phase = .error ∧ t.block.errCode = s.block.errCode ∧ t.block.errCmd = s.block.errCmd

/-- 10_state.md R31: END writes every digest byte, START and reset clear them, and nothing else writes them. -/
def Obligations.DigestWrittenOnlyByStartEndReset : Prop :=
  (∀ s t : State, step s = .next t → ¬ ResetTakesPlace s → ¬ Executes s 0x00000001 →
    ¬ (Executes s 0x00000003 ∧ s.block.phase = .absorbing) → t.block.dig = s.block.dig) ∧
  (∀ s t : State, step s = .next t → Executes s 0x00000001 → digClear t.block) ∧
  (∀ s t : State, step s = .next t → Executes s 0x00000003 → s.block.phase = .absorbing →
    ∀ i, (digGet t.block i).toNat = ((List.range (i.toNat + 1)).map (columnSum t.block)).sum % 256) ∧
  digClear State.reset.block

/-- 10_state.md R26 and R24: the host writes no datapath register: a move of the host that is no reset changes at most ARG
and LATCH. -/
def Obligations.HostWritesOnlyArgAndLatch : Prop :=
  ∀ s t : State, step s = .next t → ¬ ResetTakesPlace s → (∀ w, ¬ Executes s w) →
    t.block = { s.block with arg := t.block.arg, latch := t.block.latch }

/-! ### The register window -/

/-- 10_state.md R40: the offsets of the map, each read back to its register, and no other offset is mapped. -/
def Obligations.RegisterMapIsOneToOne : Prop :=
  (∀ r, regAt (regOffset r) = some r) ∧ (∀ off r, regAt off = some r → regOffset r = off) ∧
  (∀ k : BitVec 5, (regOffset (.ws k)).toNat = 0x100 + 4 * k.toNat) ∧
  (∀ k : BitVec 3, (regOffset (.digest k)).toNat = 0x200 + 4 * k.toNat) ∧
  regOffset .cmd = 0x000 ∧ regOffset .arg = 0x004 ∧ regOffset .status = 0x008 ∧ regOffset .errCmd = 0x00C ∧
  regOffset .prng = 0x010 ∧ regOffset .result = 0x014 ∧ regOffset .count = 0x018 ∧ regOffset .seq = 0x01C

/-- 20_memory.md R57: an access gets a bus error exactly when one of (a) to (d) holds; it changes no state of the block and
is answered at once, also while BUSY = 1, and the host sees the error response. That the error is a next state, recorded in
`responses`, after which the host goes on to its next input, is the model's choice (log entry 3, DEDUCED: R57 says that a
model records the access as a fault of the host). -/
def Obligations.BusErrorConditions : Prop :=
  ∀ a : Access,
    let off := accessOffset a
    let bad := accessWidth a ≠ 4 ∨ off.toNat % 4 ≠ 0 ∨ (∀ r, regOffset r ≠ off) ∨
      (accessWrites a = true ∧ off ≠ 0x000 ∧ off ≠ 0x004)
    (∀ b : Block, busAccess b a = some (b, .busError off) ↔ bad) ∧
    (∀ (s : State) (rest : List Input), bad → s.inputs = .access a :: rest → HostMay s →
      step s = .next { s with inputs := rest, turns := turnsAfter s, responses := s.responses ++ [.busError off] })

/-- 20_memory.md R60: a write to CMD latches the word when LATCH is empty and stalls otherwise; it raises no command
error. -/
def Obligations.CmdWriteLatchesOrStalls : Prop :=
  ∀ (b : Block) (v : Word),
    (b.latch = none → busAccess b (.write 4 0x000 v) = some ({ b with latch := some v }, .written)) ∧
    (b.latch ≠ none → busAccess b (.write 4 0x000 v) = none)

/-- 20_memory.md R61: a write to ARG completes when LATCH is empty and stalls otherwise, so that ARG does not change while
a command is pending (but by reset). -/
def Obligations.ArgKeptWhileCommandPending : Prop :=
  (∀ (b : Block) (v : Word),
    (b.latch = none → busAccess b (.write 4 0x004 v) = some ({ b with arg := v }, .written)) ∧
    (b.latch ≠ none → busAccess b (.write 4 0x004 v) = none)) ∧
  (∀ s t : State, s.block.latch ≠ none → ¬ ResetTakesPlace s → step s = .next t → t.block.arg = s.block.arg)

/-- 20_memory.md R62: STATUS is read at once in every state; every other mapped offset stalls while LATCH is not empty and
else returns its register; no read changes any state. -/
def Obligations.ReadsStallWhileBusyButStatus : Prop :=
  ∀ (b : Block) (r : Reg),
    busAccess b (.read 4 0x008) = some (b, .data (readReg b .status)) ∧
    (r ≠ .status → b.latch ≠ none → busAccess b (.read 4 (regOffset r)) = none) ∧
    (b.latch = none → busAccess b (.read 4 (regOffset r)) = some (b, .data (readReg b r))) ∧
    (∀ n off c v, busAccess b (.read n off) = some (c, v) → c = b)

/-- 70_reset_and_hazards.md R141: a stalled access waits: the step is the core step, which empties LATCH and leaves the
access and the responses as they are. -/
def Obligations.StalledAccessWaitsForTheCore : Prop :=
  ∀ (s t : State) (a : Access) (rest : List Input), s.inputs = .access a :: rest → busAccess s.block a = none →
    step s = .next t → s.block.latch ≠ none ∧ t.block.latch = none ∧ t.inputs = s.inputs ∧ t.responses = s.responses

/-- An access that does not stall takes place when the host may move, and the bus's answer is recorded
(20_memory.md R60 to R63). Where the answer is a bus error, that it is a next state is the model's choice (log entry 3). -/
def Obligations.AccessTakesPlace : Prop :=
  ∀ (s : State) (a : Access) (rest : List Input) (b : Block) (r : Response),
    s.inputs = .access a :: rest → HostMay s → busAccess s.block a = some (b, r) →
    step s = .next { block := b, inputs := rest, turns := turnsAfter s, responses := s.responses ++ [r] }

/-- 10_state.md R43 and R48: the fields of STATUS and SEQ, their reserved bits 0. -/
def Obligations.StatusAndSeqFields : Prop :=
  ∀ b : Block,
    ((readReg b .status).extractLsb' 0 3).toNat = (phaseCode b.phase).toNat ∧
    (readReg b .status).getLsbD 3 = false ∧
    (readReg b .status).getLsbD 4 = b.latch.isSome ∧
    (readReg b .status).extractLsb' 5 3 = 0 ∧
    (readReg b .status).extractLsb' 8 4 = b.errCode ∧
    (readReg b .status).extractLsb' 12 20 = 0 ∧
    (readReg b .seq).extractLsb' 0 7 = b.pos ∧
    (readReg b .seq).getLsbD 7 = false ∧
    (readReg b .seq).getLsbD 8 = b.seeded ∧
    (readReg b .seq).extractLsb' 9 23 = 0

/-- 20_memory.md R58 with 10_state.md R45 to R50: bytes are packed little-endian in PRNG, RESULT, WS and DIGEST. -/
def Obligations.WindowsReadBytesLittleEndian : Prop :=
  ∀ b : Block,
    (∀ (k : BitVec 5) (j : Nat), j < 4 →
      (readReg b (.ws k)).extractLsb' (8 * j) 8 = wsGet b (wsIndex (4 * k.toNat + j))) ∧
    (∀ (k : BitVec 3) (j : Nat), j < 4 →
      (readReg b (.digest k)).extractLsb' (8 * j) 8 = digGet b (BitVec.ofNat 5 (4 * k.toNat + j))) ∧
    (readReg b .prng).extractLsb' 0 8 = b.x ∧ (readReg b .prng).extractLsb' 8 8 = b.y ∧
    (readReg b .prng).extractLsb' 16 8 = b.z ∧ (readReg b .prng).extractLsb' 24 8 = b.w ∧
    (readReg b .result).toNat = b.out.toNat ∧ readReg b .count = b.count ∧ readReg b .errCmd = b.errCmd ∧
    readReg b .arg = b.arg ∧ readReg b .cmd = 0

/-! ### Whole computations -/

/-- 45_commands.md R117: from every state with LATCH empty, START, the message's BYTEs and END leave what the rule lists.
First where the inputs are these writes and nothing else: after as many core steps, at rest. Then with any other inputs but
a reset or a write to CMD before, between and after them (reads, STATUS polls, WAIT, writes to ARG, accesses that get a bus
error), and with any inputs whatever once END has executed: the machine comes to the core step of END, the first one; no
core step up to it leaves the block in ERROR, and it leaves what the rule lists, with exactly the message's words taken from
the inputs. (`rest` begins where an input is held until END's core step; a reset before that would discard END.) -/
def Obligations.MessageProgramComputesHash : Prop :=
  (∀ (s : State) (m : List Byte), s.block.latch = none →
    s.inputs = programInputs [.start, .msg m, .endMessage] →
    ∃ t, run (2 * (m.length + 2)) s = .next t ∧ Quiescent t ∧ HashDone m t.block) ∧
  (∀ (s : State) (m : List Byte) (mid rest : List Input), s.block.latch = none →
    s.inputs = mid ++ rest → mid.filterMap cmdWrite = (messageCommands m).map encode → Input.reset ∉ mid →
    (∀ i, rest.head? = some i → HeldWhileBusy i) →
    ∃ k u t, run k s = .next u ∧ Executes u 0x00000003 ∧ step u = .next t ∧
      HashDone m t.block ∧ t.block.latch = none ∧
      (∃ gone, s.inputs = gone ++ t.inputs ∧ gone.filterMap cmdWrite = (messageCommands m).map encode) ∧
      (∀ j v, j < k → run j s = .next v → ¬ Executes v 0x00000003) ∧
      (∀ j v v' w, j ≤ k → run j s = .next v → Executes v w → step v = .next v' → v'.block.phase ≠ .error))

/-- 45_commands.md R117 for the meanings: the commands of a message, run in order from any state whatever, complete and
leave hash(m) in dig. -/
def Obligations.MessageCommandsComputeHash : Prop :=
  ∀ (s : State) (m : List Byte), ∃ t, execAll (messageCommands m) s = .next t ∧
    DigestValid t.block ∧ t.block.dig = hashMessage m ∧ t.block.errCode = 0 ∧
    t.block.arg = s.block.arg ∧ t.block.latch = s.block.latch ∧ SameHost s t

/-- 45_commands.md R118: no state before START reaches what END leaves: two runs on the same message from any two states
differ at most in ARG, LATCH and the surroundings. -/
def Obligations.NothingBeforeStartReachesTheDigest : Prop :=
  ∀ (s₁ s₂ t₁ t₂ : State) (m : List Byte),
    execAll (messageCommands m) s₁ = .next t₁ → execAll (messageCommands m) s₂ = .next t₂ →
    t₁.block.dig = t₂.block.dig ∧ t₁.block = { t₂.block with arg := t₁.block.arg, latch := t₁.block.latch }

/-- Whatever the interleaving of host and core (20_memory.md R66, 70_reset_and_hazards.md R143, 95_test_vectors.md P7),
two runs of the same inputs from the same block that come to rest end in the same block. -/
def Obligations.InterleavingDoesNotMatter : Prop :=
  ∀ (s₁ s₂ t₁ t₂ : State) (k₁ k₂ : Nat), s₁.block = s₂.block → s₁.inputs = s₂.inputs →
    run k₁ s₁ = .next t₁ → run k₂ s₂ = .next t₂ → Quiescent t₁ → Quiescent t₂ → t₁.block = t₂.block

/-- Every wait ends (60_exceptions.md R129, 70_reset_and_hazards.md R141, R143): every state comes to rest, within this
many steps. That `turns` is finite is the model's form of the fairness of R143 (entry 14). -/
def Obligations.EveryRunComesToRest : Prop :=
  ∀ s : State, ∃ t, run (s.turns.length + 2 * s.inputs.length + 1) s = .next t ∧ Quiescent t

/-! ### Host programs and platforms -/

/-- 30_encoding.md R79: the words the statements write are the words of their commands. -/
def Obligations.StatementsWriteTheirCommands : Prop :=
  stmtInputs .start = [writeCmd (encode .start)] ∧ stmtInputs .endMessage = [writeCmd (encode .endMessage)] ∧
  stmtInputs .seed = [writeCmd (encode .seed)] ∧
  (∀ b, stmtInputs (.byte b) = [writeCmd (encode (.byte b))]) ∧
  (∀ b, stmtInputs (.next b) = [writeCmd (encode (.next b))])

/-- 30_encoding.md R80: SEEDB a, b, c, d, in IDLE or DONE, puts a, b, c, d in X, Y, Z, W. -/
def Obligations.SeedbLoadsThePrng : Prop :=
  ∀ (s : State) (a b c d : Byte), s.block.latch = none → s.block.phase = .idle ∨ s.block.phase = .done →
    s.inputs = stmtInputs (.seedb a b c d) →
    ∃ t, run 3 s = .next t ∧ Quiescent t ∧
      t.block = { s.block with x := a, y := b, z := c, w := d, arg := d ++ c ++ b ++ a }

/-- 60_exceptions.md R135: a step of one instance changes no other instance and no BASE, and keeps the platform well
formed. The platform layer is the model's form of it (entry 5). -/
def Obligations.InstancesShareNothing : Prop :=
  ∀ (p q : Platform) (k : Nat), platformWf p = true → platformStep p k = .next q →
    platformWf q = true ∧ q.instances.map (·.base) = p.instances.map (·.base) ∧
    ∀ j, j ≠ k → q.instances[j]? = p.instances[j]?

/-- 10_state.md R40 and 20_memory.md R64: an access at BASE + off reaches the instance at BASE, with the offset off, and
only that one; an address in no window faults (entry 6). That it goes to that instance's own inputs, whatever is stalled at
another instance, is the model's choice (entry 21). -/
def Obligations.AddressReachesItsInstance : Prop :=
  (∀ (p : Platform) (k : Nat) (i : Instance) (off : Offset) (mk : Offset → Access),
    platformWf p = true → p.instances[k]? = some i →
    platformAccess p (i.base + off.toNat) mk = .next ⟨p.instances.set k
      { i with state := { i.state with inputs := i.state.inputs ++ [.access (mk off)] } }⟩) ∧
  (∀ (p : Platform) (addr : Nat) (mk : Offset → Access),
    (∀ i ∈ p.instances, addr < i.base ∨ i.base + 4096 ≤ addr) →
    platformAccess p addr mk = .fault (.noBlockAt addr))
end

