-- ==== Sys2Proof/Laws/State.lean ====
section
/-! SUPPORT. For each update of the state, what it leaves in each field; every lemma is true by rfl. -/

namespace Sys2Proof.Machine

section SeedByteFields
variable (b : Block) (v : Byte)
@[simp] theorem seedByte_zero : seedByte b 0 v = { b with x := v } := rfl
@[simp] theorem seedByte_one : seedByte b 1 v = { b with y := v } := rfl
@[simp] theorem seedByte_two : seedByte b 2 v = { b with z := v } := rfl
@[simp] theorem seedByte_three : seedByte b 3 v = { b with w := v, seeded := true } := rfl
end SeedByteFields

section WsSetFields
variable (b : Block) (i : WsIndex) (v : Byte)
@[simp] theorem wsSet_x : (wsSet b i v).x = b.x := rfl
@[simp] theorem wsSet_y : (wsSet b i v).y = b.y := rfl
@[simp] theorem wsSet_z : (wsSet b i v).z = b.z := rfl
@[simp] theorem wsSet_w : (wsSet b i v).w = b.w := rfl
@[simp] theorem wsSet_out : (wsSet b i v).out = b.out := rfl
@[simp] theorem wsSet_ws : (wsSet b i v).ws = b.ws.set i.toNat v i.isLt := rfl
@[simp] theorem wsSet_dig : (wsSet b i v).dig = b.dig := rfl
@[simp] theorem wsSet_count : (wsSet b i v).count = b.count := rfl
@[simp] theorem wsSet_pos : (wsSet b i v).pos = b.pos := rfl
@[simp] theorem wsSet_seeded : (wsSet b i v).seeded = b.seeded := rfl
@[simp] theorem wsSet_phase : (wsSet b i v).phase = b.phase := rfl
@[simp] theorem wsSet_errCode : (wsSet b i v).errCode = b.errCode := rfl
@[simp] theorem wsSet_errCmd : (wsSet b i v).errCmd = b.errCmd := rfl
@[simp] theorem wsSet_arg : (wsSet b i v).arg = b.arg := rfl
@[simp] theorem wsSet_latch : (wsSet b i v).latch = b.latch := rfl
end WsSetFields

section DigSetFields
variable (b : Block) (i : BitVec 5) (v : Byte)
@[simp] theorem digSet_x : (digSet b i v).x = b.x := rfl
@[simp] theorem digSet_y : (digSet b i v).y = b.y := rfl
@[simp] theorem digSet_z : (digSet b i v).z = b.z := rfl
@[simp] theorem digSet_w : (digSet b i v).w = b.w := rfl
@[simp] theorem digSet_out : (digSet b i v).out = b.out := rfl
@[simp] theorem digSet_ws : (digSet b i v).ws = b.ws := rfl
@[simp] theorem digSet_dig : (digSet b i v).dig = b.dig.set i.toNat v i.isLt := rfl
@[simp] theorem digSet_count : (digSet b i v).count = b.count := rfl
@[simp] theorem digSet_pos : (digSet b i v).pos = b.pos := rfl
@[simp] theorem digSet_seeded : (digSet b i v).seeded = b.seeded := rfl
@[simp] theorem digSet_phase : (digSet b i v).phase = b.phase := rfl
@[simp] theorem digSet_errCode : (digSet b i v).errCode = b.errCode := rfl
@[simp] theorem digSet_errCmd : (digSet b i v).errCmd = b.errCmd := rfl
@[simp] theorem digSet_arg : (digSet b i v).arg = b.arg := rfl
@[simp] theorem digSet_latch : (digSet b i v).latch = b.latch := rfl
end DigSetFields

section ClearWsFields
variable (b : Block)
@[simp] theorem clearWs_x : (clearWs b).x = b.x := rfl
@[simp] theorem clearWs_y : (clearWs b).y = b.y := rfl
@[simp] theorem clearWs_z : (clearWs b).z = b.z := rfl
@[simp] theorem clearWs_w : (clearWs b).w = b.w := rfl
@[simp] theorem clearWs_out : (clearWs b).out = b.out := rfl
@[simp] theorem clearWs_ws : (clearWs b).ws = Vector.replicate Config.wsSize 0 := rfl
@[simp] theorem clearWs_dig : (clearWs b).dig = b.dig := rfl
@[simp] theorem clearWs_count : (clearWs b).count = b.count := rfl
@[simp] theorem clearWs_pos : (clearWs b).pos = b.pos := rfl
@[simp] theorem clearWs_seeded : (clearWs b).seeded = b.seeded := rfl
@[simp] theorem clearWs_phase : (clearWs b).phase = b.phase := rfl
@[simp] theorem clearWs_errCode : (clearWs b).errCode = b.errCode := rfl
@[simp] theorem clearWs_errCmd : (clearWs b).errCmd = b.errCmd := rfl
@[simp] theorem clearWs_arg : (clearWs b).arg = b.arg := rfl
@[simp] theorem clearWs_latch : (clearWs b).latch = b.latch := rfl
end ClearWsFields

section SetPosFields
variable (b : Block) (i : WsIndex)
@[simp] theorem setPos_x : (setPos b i).x = b.x := rfl
@[simp] theorem setPos_y : (setPos b i).y = b.y := rfl
@[simp] theorem setPos_z : (setPos b i).z = b.z := rfl
@[simp] theorem setPos_w : (setPos b i).w = b.w := rfl
@[simp] theorem setPos_out : (setPos b i).out = b.out := rfl
@[simp] theorem setPos_ws : (setPos b i).ws = b.ws := rfl
@[simp] theorem setPos_dig : (setPos b i).dig = b.dig := rfl
@[simp] theorem setPos_count : (setPos b i).count = b.count := rfl
@[simp] theorem setPos_pos : (setPos b i).pos = i := rfl
@[simp] theorem setPos_seeded : (setPos b i).seeded = b.seeded := rfl
@[simp] theorem setPos_phase : (setPos b i).phase = b.phase := rfl
@[simp] theorem setPos_errCode : (setPos b i).errCode = b.errCode := rfl
@[simp] theorem setPos_errCmd : (setPos b i).errCmd = b.errCmd := rfl
@[simp] theorem setPos_arg : (setPos b i).arg = b.arg := rfl
@[simp] theorem setPos_latch : (setPos b i).latch = b.latch := rfl
end SetPosFields

section BumpCountFields
variable (b : Block)
@[simp] theorem bumpCount_x : (bumpCount b).x = b.x := rfl
@[simp] theorem bumpCount_y : (bumpCount b).y = b.y := rfl
@[simp] theorem bumpCount_z : (bumpCount b).z = b.z := rfl
@[simp] theorem bumpCount_w : (bumpCount b).w = b.w := rfl
@[simp] theorem bumpCount_out : (bumpCount b).out = b.out := rfl
@[simp] theorem bumpCount_ws : (bumpCount b).ws = b.ws := rfl
@[simp] theorem bumpCount_dig : (bumpCount b).dig = b.dig := rfl
@[simp] theorem bumpCount_count : (bumpCount b).count = b.count + 1 := rfl
@[simp] theorem bumpCount_pos : (bumpCount b).pos = b.pos := rfl
@[simp] theorem bumpCount_seeded : (bumpCount b).seeded = b.seeded := rfl
@[simp] theorem bumpCount_phase : (bumpCount b).phase = b.phase := rfl
@[simp] theorem bumpCount_errCode : (bumpCount b).errCode = b.errCode := rfl
@[simp] theorem bumpCount_errCmd : (bumpCount b).errCmd = b.errCmd := rfl
@[simp] theorem bumpCount_arg : (bumpCount b).arg = b.arg := rfl
@[simp] theorem bumpCount_latch : (bumpCount b).latch = b.latch := rfl
end BumpCountFields

section SetPhaseFields
variable (b : Block) (p : Phase)
@[simp] theorem setPhase_x : (setPhase b p).x = b.x := rfl
@[simp] theorem setPhase_y : (setPhase b p).y = b.y := rfl
@[simp] theorem setPhase_z : (setPhase b p).z = b.z := rfl
@[simp] theorem setPhase_w : (setPhase b p).w = b.w := rfl
@[simp] theorem setPhase_out : (setPhase b p).out = b.out := rfl
@[simp] theorem setPhase_ws : (setPhase b p).ws = b.ws := rfl
@[simp] theorem setPhase_dig : (setPhase b p).dig = b.dig := rfl
@[simp] theorem setPhase_count : (setPhase b p).count = b.count := rfl
@[simp] theorem setPhase_pos : (setPhase b p).pos = b.pos := rfl
@[simp] theorem setPhase_seeded : (setPhase b p).seeded = b.seeded := rfl
@[simp] theorem setPhase_phase : (setPhase b p).phase = p := rfl
@[simp] theorem setPhase_errCode : (setPhase b p).errCode = b.errCode := rfl
@[simp] theorem setPhase_errCmd : (setPhase b p).errCmd = b.errCmd := rfl
@[simp] theorem setPhase_arg : (setPhase b p).arg = b.arg := rfl
@[simp] theorem setPhase_latch : (setPhase b p).latch = b.latch := rfl
end SetPhaseFields

section SetArgFields
variable (b : Block) (v : Word)
@[simp] theorem setArg_x : (setArg b v).x = b.x := rfl
@[simp] theorem setArg_y : (setArg b v).y = b.y := rfl
@[simp] theorem setArg_z : (setArg b v).z = b.z := rfl
@[simp] theorem setArg_w : (setArg b v).w = b.w := rfl
@[simp] theorem setArg_out : (setArg b v).out = b.out := rfl
@[simp] theorem setArg_ws : (setArg b v).ws = b.ws := rfl
@[simp] theorem setArg_dig : (setArg b v).dig = b.dig := rfl
@[simp] theorem setArg_count : (setArg b v).count = b.count := rfl
@[simp] theorem setArg_pos : (setArg b v).pos = b.pos := rfl
@[simp] theorem setArg_seeded : (setArg b v).seeded = b.seeded := rfl
@[simp] theorem setArg_phase : (setArg b v).phase = b.phase := rfl
@[simp] theorem setArg_errCode : (setArg b v).errCode = b.errCode := rfl
@[simp] theorem setArg_errCmd : (setArg b v).errCmd = b.errCmd := rfl
@[simp] theorem setArg_arg : (setArg b v).arg = v := rfl
@[simp] theorem setArg_latch : (setArg b v).latch = b.latch := rfl
end SetArgFields

section FillLatchFields
variable (b : Block) (v : Word)
@[simp] theorem fillLatch_x : (fillLatch b v).x = b.x := rfl
@[simp] theorem fillLatch_y : (fillLatch b v).y = b.y := rfl
@[simp] theorem fillLatch_z : (fillLatch b v).z = b.z := rfl
@[simp] theorem fillLatch_w : (fillLatch b v).w = b.w := rfl
@[simp] theorem fillLatch_out : (fillLatch b v).out = b.out := rfl
@[simp] theorem fillLatch_ws : (fillLatch b v).ws = b.ws := rfl
@[simp] theorem fillLatch_dig : (fillLatch b v).dig = b.dig := rfl
@[simp] theorem fillLatch_count : (fillLatch b v).count = b.count := rfl
@[simp] theorem fillLatch_pos : (fillLatch b v).pos = b.pos := rfl
@[simp] theorem fillLatch_seeded : (fillLatch b v).seeded = b.seeded := rfl
@[simp] theorem fillLatch_phase : (fillLatch b v).phase = b.phase := rfl
@[simp] theorem fillLatch_errCode : (fillLatch b v).errCode = b.errCode := rfl
@[simp] theorem fillLatch_errCmd : (fillLatch b v).errCmd = b.errCmd := rfl
@[simp] theorem fillLatch_arg : (fillLatch b v).arg = b.arg := rfl
@[simp] theorem fillLatch_latch : (fillLatch b v).latch = some v := rfl
end FillLatchFields

section EmptyLatchFields
variable (b : Block)
@[simp] theorem emptyLatch_x : (emptyLatch b).x = b.x := rfl
@[simp] theorem emptyLatch_y : (emptyLatch b).y = b.y := rfl
@[simp] theorem emptyLatch_z : (emptyLatch b).z = b.z := rfl
@[simp] theorem emptyLatch_w : (emptyLatch b).w = b.w := rfl
@[simp] theorem emptyLatch_out : (emptyLatch b).out = b.out := rfl
@[simp] theorem emptyLatch_ws : (emptyLatch b).ws = b.ws := rfl
@[simp] theorem emptyLatch_dig : (emptyLatch b).dig = b.dig := rfl
@[simp] theorem emptyLatch_count : (emptyLatch b).count = b.count := rfl
@[simp] theorem emptyLatch_pos : (emptyLatch b).pos = b.pos := rfl
@[simp] theorem emptyLatch_seeded : (emptyLatch b).seeded = b.seeded := rfl
@[simp] theorem emptyLatch_phase : (emptyLatch b).phase = b.phase := rfl
@[simp] theorem emptyLatch_errCode : (emptyLatch b).errCode = b.errCode := rfl
@[simp] theorem emptyLatch_errCmd : (emptyLatch b).errCmd = b.errCmd := rfl
@[simp] theorem emptyLatch_arg : (emptyLatch b).arg = b.arg := rfl
@[simp] theorem emptyLatch_latch : (emptyLatch b).latch = none := rfl
end EmptyLatchFields

section EnterErrorFields
variable (e : CmdError) (v : Word) (b : Block)
@[simp] theorem enterError_x : (enterError e v b).x = b.x := rfl
@[simp] theorem enterError_y : (enterError e v b).y = b.y := rfl
@[simp] theorem enterError_z : (enterError e v b).z = b.z := rfl
@[simp] theorem enterError_w : (enterError e v b).w = b.w := rfl
@[simp] theorem enterError_out : (enterError e v b).out = b.out := rfl
@[simp] theorem enterError_ws : (enterError e v b).ws = b.ws := rfl
@[simp] theorem enterError_dig : (enterError e v b).dig = b.dig := rfl
@[simp] theorem enterError_count : (enterError e v b).count = b.count := rfl
@[simp] theorem enterError_pos : (enterError e v b).pos = b.pos := rfl
@[simp] theorem enterError_seeded : (enterError e v b).seeded = b.seeded := rfl
@[simp] theorem enterError_phase : (enterError e v b).phase = .error := rfl
@[simp] theorem enterError_errCode : (enterError e v b).errCode = errorCode e := rfl
@[simp] theorem enterError_errCmd : (enterError e v b).errCmd = v := rfl
@[simp] theorem enterError_arg : (enterError e v b).arg = b.arg := rfl
@[simp] theorem enterError_latch : (enterError e v b).latch = b.latch := rfl
end EnterErrorFields

section PrngSeedFields
variable (b : Block) (p q r t : Byte)
@[simp] theorem prngSeed_x : (prngSeed b p q r t).x = p := rfl
@[simp] theorem prngSeed_y : (prngSeed b p q r t).y = q := rfl
@[simp] theorem prngSeed_z : (prngSeed b p q r t).z = r := rfl
@[simp] theorem prngSeed_w : (prngSeed b p q r t).w = t := rfl
@[simp] theorem prngSeed_out : (prngSeed b p q r t).out = b.out := rfl
@[simp] theorem prngSeed_ws : (prngSeed b p q r t).ws = b.ws := rfl
@[simp] theorem prngSeed_dig : (prngSeed b p q r t).dig = b.dig := rfl
@[simp] theorem prngSeed_count : (prngSeed b p q r t).count = b.count := rfl
@[simp] theorem prngSeed_pos : (prngSeed b p q r t).pos = b.pos := rfl
@[simp] theorem prngSeed_seeded : (prngSeed b p q r t).seeded = b.seeded := rfl
@[simp] theorem prngSeed_phase : (prngSeed b p q r t).phase = b.phase := rfl
@[simp] theorem prngSeed_errCode : (prngSeed b p q r t).errCode = b.errCode := rfl
@[simp] theorem prngSeed_errCmd : (prngSeed b p q r t).errCmd = b.errCmd := rfl
@[simp] theorem prngSeed_arg : (prngSeed b p q r t).arg = b.arg := rfl
@[simp] theorem prngSeed_latch : (prngSeed b p q r t).latch = b.latch := rfl
end PrngSeedFields

section PrngNextFields
variable (b : Block) (d : Byte)
@[simp] theorem prngNext_x : (prngNext b d).x = b.y := rfl
@[simp] theorem prngNext_y : (prngNext b d).y = b.z := rfl
@[simp] theorem prngNext_z : (prngNext b d).z = b.w := rfl
@[simp] theorem prngNext_w : (prngNext b d).w = prngByte b d := rfl
@[simp] theorem prngNext_out : (prngNext b d).out = prngByte b d := rfl
@[simp] theorem prngNext_ws : (prngNext b d).ws = b.ws := rfl
@[simp] theorem prngNext_dig : (prngNext b d).dig = b.dig := rfl
@[simp] theorem prngNext_count : (prngNext b d).count = b.count := rfl
@[simp] theorem prngNext_pos : (prngNext b d).pos = b.pos := rfl
@[simp] theorem prngNext_seeded : (prngNext b d).seeded = b.seeded := rfl
@[simp] theorem prngNext_phase : (prngNext b d).phase = b.phase := rfl
@[simp] theorem prngNext_errCode : (prngNext b d).errCode = b.errCode := rfl
@[simp] theorem prngNext_errCmd : (prngNext b d).errCmd = b.errCmd := rfl
@[simp] theorem prngNext_arg : (prngNext b d).arg = b.arg := rfl
@[simp] theorem prngNext_latch : (prngNext b d).latch = b.latch := rfl
end PrngNextFields

section SeedBlockFields
variable (b : Block)
@[simp] theorem seedBlock_x : (seedBlock b).x = seedX b.arg := rfl
@[simp] theorem seedBlock_y : (seedBlock b).y = seedY b.arg := rfl
@[simp] theorem seedBlock_z : (seedBlock b).z = seedZ b.arg := rfl
@[simp] theorem seedBlock_w : (seedBlock b).w = seedW b.arg := rfl
@[simp] theorem seedBlock_out : (seedBlock b).out = b.out := rfl
@[simp] theorem seedBlock_ws : (seedBlock b).ws = b.ws := rfl
@[simp] theorem seedBlock_dig : (seedBlock b).dig = b.dig := rfl
@[simp] theorem seedBlock_count : (seedBlock b).count = b.count := rfl
@[simp] theorem seedBlock_pos : (seedBlock b).pos = b.pos := rfl
@[simp] theorem seedBlock_seeded : (seedBlock b).seeded = b.seeded := rfl
@[simp] theorem seedBlock_phase : (seedBlock b).phase = b.phase := rfl
@[simp] theorem seedBlock_errCode : (seedBlock b).errCode = b.errCode := rfl
@[simp] theorem seedBlock_errCmd : (seedBlock b).errCmd = b.errCmd := rfl
@[simp] theorem seedBlock_arg : (seedBlock b).arg = b.arg := rfl
@[simp] theorem seedBlock_latch : (seedBlock b).latch = b.latch := rfl
end SeedBlockFields

section XorNextFields
variable (b : Block) (i : WsIndex) (d : Byte)
@[simp] theorem xorNext_x : (xorNext b i d).x = b.y := rfl
@[simp] theorem xorNext_y : (xorNext b i d).y = b.z := rfl
@[simp] theorem xorNext_z : (xorNext b i d).z = b.w := rfl
@[simp] theorem xorNext_w : (xorNext b i d).w = prngByte b d := rfl
@[simp] theorem xorNext_out : (xorNext b i d).out = prngByte b d := rfl
@[simp] theorem xorNext_ws : (xorNext b i d).ws = b.ws.set i.toNat (wsGet b i ^^^ prngByte b d) i.isLt := rfl
@[simp] theorem xorNext_dig : (xorNext b i d).dig = b.dig := rfl
@[simp] theorem xorNext_count : (xorNext b i d).count = b.count := rfl
@[simp] theorem xorNext_pos : (xorNext b i d).pos = b.pos := rfl
@[simp] theorem xorNext_seeded : (xorNext b i d).seeded = b.seeded := rfl
@[simp] theorem xorNext_phase : (xorNext b i d).phase = b.phase := rfl
@[simp] theorem xorNext_errCode : (xorNext b i d).errCode = b.errCode := rfl
@[simp] theorem xorNext_errCmd : (xorNext b i d).errCmd = b.errCmd := rfl
@[simp] theorem xorNext_arg : (xorNext b i d).arg = b.arg := rfl
@[simp] theorem xorNext_latch : (xorNext b i d).latch = b.latch := rfl
end XorNextFields

section StartBlockFields
variable (b : Block)
@[simp] theorem startBlock_x : (startBlock b).x = 0 := rfl
@[simp] theorem startBlock_y : (startBlock b).y = 0 := rfl
@[simp] theorem startBlock_z : (startBlock b).z = 0 := rfl
@[simp] theorem startBlock_w : (startBlock b).w = 0 := rfl
@[simp] theorem startBlock_out : (startBlock b).out = 0 := rfl
@[simp] theorem startBlock_ws : (startBlock b).ws = Vector.replicate Config.wsSize 0 := rfl
@[simp] theorem startBlock_dig : (startBlock b).dig = Vector.replicate Config.digestSize 0 := rfl
@[simp] theorem startBlock_count : (startBlock b).count = 0 := rfl
@[simp] theorem startBlock_pos : (startBlock b).pos = 0 := rfl
@[simp] theorem startBlock_seeded : (startBlock b).seeded = false := rfl
@[simp] theorem startBlock_phase : (startBlock b).phase = .absorbing := rfl
@[simp] theorem startBlock_errCode : (startBlock b).errCode = 0 := rfl
@[simp] theorem startBlock_errCmd : (startBlock b).errCmd = 0 := rfl
@[simp] theorem startBlock_arg : (startBlock b).arg = b.arg := rfl
@[simp] theorem startBlock_latch : (startBlock b).latch = b.latch := rfl
end StartBlockFields

section StateFields
variable (f : Block → Block) (s : State) (v : Word) (n k : Nat)
@[simp] theorem mapBlock_block : (s.mapBlock f).block = f s.block := rfl
@[simp] theorem mapBlock_inputs : (s.mapBlock f).inputs = s.inputs := rfl
@[simp] theorem mapBlock_turns : (s.mapBlock f).turns = s.turns := rfl
@[simp] theorem mapBlock_responses : (s.mapBlock f).responses = s.responses := rfl
@[simp] theorem takeTurn_block : (takeTurn s).block = s.block := rfl
@[simp] theorem takeTurn_inputs : (takeTurn s).inputs = s.inputs := rfl
@[simp] theorem takeTurn_turns : (takeTurn s).turns = s.turns.tail := rfl
@[simp] theorem takeTurn_responses : (takeTurn s).responses = s.responses := rfl
@[simp] theorem latchForCore_block : (latchForCore v s).block = fillLatch s.block v := rfl
@[simp] theorem latchForCore_inputs : (latchForCore v s).inputs = s.inputs := rfl
@[simp] theorem latchForCore_turns : (latchForCore v s).turns = .core :: s.turns := rfl
@[simp] theorem latchForCore_responses : (latchForCore v s).responses = s.responses := rfl
@[simp] theorem withFetchWord_block : (s.withFetchWord n k).block = fillLatch s.block (tableWord n k) := rfl
@[simp] theorem withFetchWord_inputs : (s.withFetchWord n k).inputs = s.inputs := rfl
@[simp] theorem withFetchWord_turns : (s.withFetchWord n k).turns = .core :: s.turns := rfl
@[simp] theorem withFetchWord_responses : (s.withFetchWord n k).responses = s.responses := rfl
end StateFields

@[simp] theorem reset_x : Block.reset.x = 0 := rfl
@[simp] theorem reset_y : Block.reset.y = 0 := rfl
@[simp] theorem reset_z : Block.reset.z = 0 := rfl
@[simp] theorem reset_w : Block.reset.w = 0 := rfl
@[simp] theorem reset_out : Block.reset.out = 0 := rfl
@[simp] theorem reset_ws : Block.reset.ws = Vector.replicate Config.wsSize 0 := rfl
@[simp] theorem reset_dig : Block.reset.dig = Vector.replicate Config.digestSize 0 := rfl
@[simp] theorem reset_count : Block.reset.count = 0 := rfl
@[simp] theorem reset_pos : Block.reset.pos = 0 := rfl
@[simp] theorem reset_seeded : Block.reset.seeded = false := rfl
@[simp] theorem reset_phase : Block.reset.phase = .idle := rfl
@[simp] theorem reset_errCode : Block.reset.errCode = 0 := rfl
@[simp] theorem reset_errCmd : Block.reset.errCmd = 0 := rfl
@[simp] theorem reset_arg : Block.reset.arg = 0 := rfl
@[simp] theorem reset_latch : Block.reset.latch = none := rfl
@[simp] theorem state_reset_block : State.reset.block = Block.reset := rfl
@[simp] theorem state_reset_inputs : State.reset.inputs = [] := rfl
@[simp] theorem state_reset_turns : State.reset.turns = [] := rfl
@[simp] theorem state_reset_responses : State.reset.responses = [] := rfl

end Sys2Proof.Machine
end

