-- ==== Sys2Proof/Laws/Ops.lean ====
section
/-! SUPPORT. For each shared operation, what it can do, said once. -/

namespace Sys2Proof.Machine

/-! ### Loops -/

@[simp] theorem forRange_zero {α : Type} (lo : Nat) (f : Nat → α → α) (a : α) : forRange lo 0 f a = a := rfl

/-- The first iteration is the one at `lo`. -/
theorem forRange_succ_left {α : Type} (lo n : Nat) (f : Nat → α → α) (a : α) :
    forRange lo (n + 1) f a = forRange (lo + 1) n f (f lo a) := by
  simp [forRange, List.range'_succ]

/-- The last iteration is the one at `lo + n`. -/
theorem forRange_succ {α : Type} (lo n : Nat) (f : Nat → α → α) (a : α) :
    forRange lo (n + 1) f a = f (lo + n) (forRange lo n f a) := by
  simp [forRange, List.range'_1_concat]

/-- A loop of m + n iterations is one of m and then one of n. -/
theorem forRange_add {α : Type} (lo m n : Nat) (f : Nat → α → α) (a : α) :
    forRange lo (m + n) f a = forRange (lo + m) n f (forRange lo m f a) := by
  simp [forRange, ← List.range'_append_1]

/-- What every iteration keeps, the loop keeps. -/
theorem forRange_keeps {α : Type} (P : α → Prop) (lo n : Nat) (f : Nat → α → α) (a : α) (h : P a)
    (hf : ∀ k b, lo ≤ k → k < lo + n → P b → P (f k b)) : P (forRange lo n f a) := by
  induction n with
  | zero => exact h
  | succ n ih =>
    rw [forRange_succ]
    exact hf _ _ (by omega) (by omega) (ih fun k b h1 h2 => hf k b h1 (by omega))

/-- A projection that no iteration changes is unchanged by the loop. -/
theorem forRange_proj {α β : Type} (g : α → β) (lo n : Nat) (f : Nat → α → α) (a : α)
    (hf : ∀ k b, g (f k b) = g b) : g (forRange lo n f a) = g a :=
  forRange_keeps (fun b => g b = g a) lo n f a rfl fun k b _ _ h => (hf k b).trans h

/-! ### The stores -/

@[simp] theorem wsGet_wsSet_self (b : Block) (i : WsIndex) (v : Byte) : wsGet (wsSet b i v) i = v := by
  simp [wsGet, wsSet]

theorem wsGet_wsSet_ne (b : Block) {i j : WsIndex} (v : Byte) (h : j ≠ i) : wsGet (wsSet b i v) j = wsGet b j := by
  have : i.toNat ≠ j.toNat := fun e => h (BitVec.eq_of_toNat_eq e.symm)
  simp [wsGet, wsSet, this]

/-- A read of ws after a write: the value written, or what was there. -/
theorem wsGet_wsSet (b : Block) (i j : WsIndex) (v : Byte) :
    wsGet (wsSet b i v) j = if j = i then v else wsGet b j := by
  by_cases h : j = i
  · subst h; simp
  · simp [h, wsGet_wsSet_ne b v h]

@[simp] theorem digGet_digSet_self (b : Block) (i : BitVec 5) (v : Byte) : digGet (digSet b i v) i = v := by
  simp [digGet, digSet]

theorem digGet_digSet_ne (b : Block) {i j : BitVec 5} (v : Byte) (h : j ≠ i) :
    digGet (digSet b i v) j = digGet b j := by
  have : i.toNat ≠ j.toNat := fun e => h (BitVec.eq_of_toNat_eq e.symm)
  simp [digGet, digSet, this]

/-- ws reads depend on the ws field alone. -/
theorem wsGet_congr {b c : Block} (h : b.ws = c.ws) (i : WsIndex) : wsGet b i = wsGet c i := by
  simp [wsGet, h]

/-- dig reads depend on the dig field alone. -/
theorem digGet_congr {b c : Block} (h : b.dig = c.dig) (i : BitVec 5) : digGet b i = digGet c i := by
  simp [digGet, h]

@[simp] theorem wsGet_clearWs (b : Block) (i : WsIndex) : wsGet (clearWs b) i = 0 := by
  simp [wsGet, clearWs]

@[simp] theorem wsGet_startBlock (b : Block) (i : WsIndex) : wsGet (startBlock b) i = 0 := by
  simp [wsGet]

@[simp] theorem digGet_startBlock (b : Block) (i : BitVec 5) : digGet (startBlock b) i = 0 := by
  simp [digGet]

@[simp] theorem wsGet_reset (i : WsIndex) : wsGet Block.reset i = 0 := by
  simp [wsGet]

@[simp] theorem digGet_reset (i : BitVec 5) : digGet Block.reset i = 0 := by
  simp [digGet]

/-- Equal reads make equal stores. -/
theorem ws_ext {b c : Block} (h : ∀ i, wsGet b i = wsGet c i) : b.ws = c.ws := by
  refine Vector.ext fun i hi => ?_
  have e : i % 128 = i := Nat.mod_eq_of_lt hi
  simpa [wsGet, e] using h (BitVec.ofNat 7 i)

/-- Equal reads make equal digests. -/
theorem dig_ext {b c : Block} (h : ∀ i, digGet b i = digGet c i) : b.dig = c.dig := by
  refine Vector.ext fun i hi => ?_
  have e : i % 32 = i := Nat.mod_eq_of_lt hi
  simpa [digGet, e] using h (BitVec.ofNat 5 i)

/-! ### The PRNG's write to the working state -/

theorem wsGet_xorNext (b : Block) (i j : WsIndex) (d : Byte) :
    wsGet (xorNext b i d) j = if j = i then wsGet b i ^^^ prngByte b d else wsGet b j := by
  rw [xorNext, wsGet_wsSet]; rfl

/-! ### Frames of the digest functions -/

/-- The elements that absorb, diffuse, finalize and fold never touch. -/
def sequencer (b : Block) : BitVec 32 × WsIndex × Bool × Phase × BitVec 4 × Word × Word × Option Word :=
  (b.count, b.pos, b.seeded, b.phase, b.errCode, b.errCmd, b.arg, b.latch)

/-- diffuse changes only ws, the PRNG bytes and OUT. -/
theorem diffuse_frame (b : Block) (p : WsIndex) :
    sequencer (diffuse b p) = sequencer b ∧ (diffuse b p).dig = b.dig :=
  ⟨forRange_proj sequencer _ _ _ _ fun _ _ => rfl, forRange_proj Block.dig _ _ _ _ fun _ _ => rfl⟩

theorem finalizePass_frame (q : Nat) (b : Block) :
    sequencer (finalizePass q b) = sequencer b ∧ (finalizePass q b).dig = b.dig :=
  ⟨forRange_proj sequencer _ _ _ _ fun _ _ => rfl, forRange_proj Block.dig _ _ _ _ fun _ _ => rfl⟩

/-- finalize changes only ws, the PRNG bytes and OUT. -/
theorem finalize_frame (b : Block) : sequencer (finalize b) = sequencer b ∧ (finalize b).dig = b.dig :=
  ⟨forRange_proj sequencer _ _ _ _ fun q b => (finalizePass_frame q b).1,
   forRange_proj Block.dig _ _ _ _ fun q b => (finalizePass_frame q b).2⟩

/-- fold changes only dig. -/
theorem fold_frame (b : Block) : ∃ v : Digest, fold b = { b with dig := v } := by
  have h : ∃ v : Digest, (forRange 0 Config.digestSize foldIndex (b, 0)).1 = { b with dig := v } :=
    forRange_keeps (fun a : Block × Byte => ∃ v : Digest, a.1 = { b with dig := v }) _ _ _ _ ⟨b.dig, rfl⟩
      fun k a _ _ ⟨v, hv⟩ => ⟨v.set (BitVec.ofNat 5 k).toNat (foldByte a.1 k a.2) (BitVec.ofNat 5 k).isLt, by
        simp [foldIndex, digSet, hv]⟩
  exact h

/-! ### Taking one padded byte -/

/-- The three things absorb_byte can do: fill X, Y or Z; fill W and set SEEDED; fold the byte at COUNT mod 128. -/
theorem absorbByte_cases (b : Block) (v : Byte) :
    (b.seeded = false ∧ b.count.toNat % 4 = 0 ∧ absorbByte b v = { b with x := v, count := b.count + 1 }) ∨
    (b.seeded = false ∧ b.count.toNat % 4 = 1 ∧ absorbByte b v = { b with y := v, count := b.count + 1 }) ∨
    (b.seeded = false ∧ b.count.toNat % 4 = 2 ∧ absorbByte b v = { b with z := v, count := b.count + 1 }) ∨
    (b.seeded = false ∧ b.count.toNat % 4 = 3 ∧
      absorbByte b v = { b with w := v, seeded := true, count := b.count + 1 }) ∨
    (b.seeded = true ∧
      absorbByte b v = bumpCount (xorNext (setPos b (wsIndex b.count.toNat)) (wsIndex b.count.toNat) v)) := by
  have hk : b.count.toNat % 4 < 4 := Nat.mod_lt _ (by omega)
  by_cases hs : b.seeded = false
  · rcases (by omega : b.count.toNat % 4 = 0 ∨ b.count.toNat % 4 = 1 ∨ b.count.toNat % 4 = 2 ∨ b.count.toNat % 4 = 3)
      with h | h | h | h <;> simp [absorbByte, bumpCount, hs, h]
  · simp [absorbByte, absorbStep, hs]

/-- absorb_byte never touches dig, PHASE, ERRCODE, ERRCMD, ARG or LATCH. -/
theorem absorbByte_frame (b : Block) (v : Byte) :
    (absorbByte b v).dig = b.dig ∧ (absorbByte b v).phase = b.phase ∧ (absorbByte b v).errCode = b.errCode ∧
      (absorbByte b v).errCmd = b.errCmd ∧ (absorbByte b v).arg = b.arg ∧ (absorbByte b v).latch = b.latch := by
  rcases absorbByte_cases b v with ⟨_, _, h⟩ | ⟨_, _, h⟩ | ⟨_, _, h⟩ | ⟨_, _, h⟩ | ⟨_, h⟩ <;> simp [h]

/-- COUNT goes up by one for every byte taken. -/
@[simp] theorem absorbByte_count (b : Block) (v : Byte) : (absorbByte b v).count = b.count + 1 := by
  rcases absorbByte_cases b v with ⟨_, _, h⟩ | ⟨_, _, h⟩ | ⟨_, _, h⟩ | ⟨_, _, h⟩ | ⟨_, h⟩ <;> simp [h]

/-! ### Commands and host accesses -/

/-- A command always answers a next state: its effect, the error entry, or the same state. -/
theorem perform_cases (i : Instr) (f : Block → Block) (s : State) :
    (legality i s.block.phase = .ok ∧ perform i f s = .next (s.mapBlock f)) ∨
    (legality i s.block.phase = .illegal ∧
      perform i f s = .next (s.mapBlock (enterError .illegalSequence (encode i)))) ∨
    (legality i s.block.phase = .discarded ∧ perform i f s = .next s) := by
  unfold perform
  split <;> simp_all

/-- What a completed bus access can do to the block: nothing, latch a command, or write ARG; a write only while LATCH is
empty. -/
theorem busAccess_cases {b c : Block} {a : Access} {r : Response} (h : busAccess b a = some (c, r)) :
    c = b ∨ (b.latch = none ∧ ∃ v, c = fillLatch b v) ∨ (b.latch = none ∧ ∃ v, c = setArg b v) := by
  unfold busAccess at h
  split at h
  · simp_all
  · split at h
    · simp_all
    · simp_all
    · split at h <;> simp_all
    · split at h <;> simp_all [busy]
      exact .inr (.inl ⟨_, h.1.symm⟩)
    · split at h <;> simp_all [busy]
      exact .inr (.inr ⟨_, h.1.symm⟩)
    · simp_all

/-- A bus access stalls only while LATCH is full. -/
theorem busAccess_of_empty {b : Block} (a : Access) (h : b.latch = none) : ∃ c r, busAccess b a = some (c, r) := by
  unfold busAccess
  split
  · exact ⟨_, _, rfl⟩
  · split <;> simp [busy, h]

/-- What a move of the host or of the reset input can do. -/
theorem hostMove_cases {s t : State} (h : hostMove s = some t) :
    (∃ a rest b r, s.inputs = .access a :: rest ∧ busAccess s.block a = some (b, r) ∧
      t = { s with block := b, inputs := rest, responses := s.responses ++ [r] }) ∨
    (∃ rest, s.inputs = .wait :: rest ∧
      t = { s with
        inputs := if busy s.block then s.inputs else rest
        responses := s.responses ++ [.data (statusWord s.block)] }) ∨
    (∃ rest, s.inputs = .reset :: rest ∧ t = { s with block := Block.reset, inputs := rest }) := by
  unfold hostMove at h
  split at h
  · simp at h
  · split at h
    · simp at h
    · rename_i a rest hi _ b r hb
      exact .inl ⟨a, rest, b, r, hi, hb, by simpa using h.symm⟩
  · rename_i rest hi
    exact .inr (.inl ⟨rest, hi, by simpa using h.symm⟩)
  · rename_i rest hi
    exact .inr (.inr ⟨rest, hi, by simpa using h.symm⟩)

/-- With LATCH empty the host moves unless it has nothing to do. -/
theorem hostMove_of_empty {s : State} (h : s.block.latch = none) (hi : s.inputs ≠ []) : ∃ t, hostMove s = some t := by
  unfold hostMove
  split
  · contradiction
  · obtain ⟨c, r, hb⟩ := busAccess_of_empty (b := s.block) (by assumption) h
    simp [hb]
  · exact ⟨_, rfl⟩
  · exact ⟨_, rfl⟩

/-- What a core step can do: discard the word in ERROR, take a decoding error, or run the command. -/
theorem coreStep_cases (w : Word) (s : State) :
    (s.block.phase = .error ∧ w ≠ startWord ∧ coreStep w s = .next (s.mapBlock emptyLatch)) ∨
    (∃ e, decode w = .error e ∧ coreStep w s = .next ((s.mapBlock emptyLatch).mapBlock (enterError e w))) ∨
    (∃ i, decode w = .ok i ∧ coreStep w s = exec i (s.mapBlock emptyLatch)) := by
  unfold coreStep
  by_cases h : s.block.phase = .error ∧ w ≠ startWord
  · exact .inl ⟨h.1, h.2, by simp [h]⟩
  · right
    simp only [mapBlock_block, emptyLatch_phase, h, if_false]
    cases hd : decode w with
    | error e => exact .inl ⟨e, rfl, rfl⟩
    | ok i => exact .inr ⟨i, rfl, rfl⟩

/-- What a step can be: idle, a move of the host with LATCH empty, a move of the host in its turn, or a core step. -/
theorem sequence_cases (s : State) :
    (s.block.latch = none ∧ hostMove s = none ∧ sequence s = .next s) ∨
    (∃ t, s.block.latch = none ∧ hostMove s = some t ∧ sequence s = .next t) ∨
    (∃ w t, s.block.latch = some w ∧ turnOf s = .host ∧ hostMove (takeTurn s) = some t ∧ sequence s = .next t) ∨
    (∃ w, s.block.latch = some w ∧ (turnOf s = .core ∨ hostMove (takeTurn s) = none) ∧
      sequence s = coreStep w (takeTurn s)) := by
  unfold sequence
  cases hl : s.block.latch with
  | none =>
    cases hm : hostMove s with
    | none => exact .inl (by simp)
    | some t => exact .inr (.inl ⟨t, by simp⟩)
  | some w =>
    right; right
    cases ht : turnOf s with
    | core => exact .inr ⟨w, by simp⟩
    | host =>
      cases hm : hostMove (takeTurn s) with
      | none => exact .inr ⟨w, by simp⟩
      | some t => exact .inl ⟨w, t, by simp⟩

end Sys2Proof.Machine
end

