-- ==== Sys2Proof/Laws/Fast.lean ====
section
/-! SUPPORT. A form of finalize and fold that Lean's kernel evaluates quickly (each byte is computed once, and no vector is
written 4096 times), proved equal to the model's. The tests use it to run END. -/

namespace Sys2Proof.Machine

/-- `k v`, with v computed to a numeral first. -/
def forceByte {α : Type} (v : Byte) (k : Byte → α) : α :=
  match v.toNat with
  | 0 => k 0
  | n + 1 => k (BitVec.ofNat 8 (n + 1))

theorem forceByte_eq {α : Type} (v : Byte) (k : Byte → α) : forceByte v k = k v := by
  have hv : BitVec.ofNat 8 v.toNat = v := by simp
  unfold forceByte
  split
  · rename_i h
    rw [h] at hv
    rw [← hv]
    rfl
  · rename_i n h
    rw [show n + 1 = v.toNat from h.symm, hv]

/-- The PRNG bytes and the working state after a pass, as a list. -/
structure PassResult where
  x : Byte
  y : Byte
  z : Byte
  w : Byte
  ws : List Byte
deriving DecidableEq, Repr

/-- The inner loop of finalize over the bytes still to come, `acc` holding those already written in reverse. -/
def fastInner (todo acc : List Byte) (x y z w : Byte) : PassResult :=
  match todo with
  | [] => ⟨x, y, z, w, acc.reverse⟩
  | v :: rest =>
    forceByte (prngFeedback w (prngMix x 0)) fun n =>
      forceByte (v ^^^ n) fun v' => fastInner rest (v' :: acc) y z w n

/-- The inner loop of finalize from index j on is `fastInner` on the rest of the working state. -/
theorem forRange_inner (todo : List Byte) : ∀ (acc : List Byte) (j : Nat) (b : Block),
    acc.length = j → j + todo.length = Config.wsSize → b.ws.toList = acc.reverse ++ todo →
    let c := forRange j todo.length (fun j b => xorNext b (wsIndex j) 0) b
    let r := fastInner todo acc b.x b.y b.z b.w
    c.ws.toList = r.ws ∧ c.x = r.x ∧ c.y = r.y ∧ c.z = r.z ∧ c.w = r.w := by
  induction todo with
  | nil => intro acc j b _ _ hb; simp [fastInner, hb]
  | cons v rest ih =>
    intro acc j b hacc hlen hb
    have hj : (wsIndex j).toNat = j := by
      have : j < 128 := by rw [List.length_cons] at hlen; change j + (rest.length + 1) = 128 at hlen; omega
      simp [wsIndex, Nat.mod_eq_of_lt this]
    have hv : wsGet b (wsIndex j) = v := by
      have h2 : b.ws.toList[j]? = some v := by
        rw [hb, List.getElem?_append_right (by simp [hacc])]
        simp [hacc]
      have h3 : b.ws[j]? = some v := by simpa using h2
      have hlt : j < Config.wsSize := by simp only [List.length_cons] at hlen; omega
      simp only [wsGet, hj]
      exact (Vector.getElem?_eq_some_iff.mp h3).2
    have hset : (xorNext b (wsIndex j) 0).ws.toList
        = ((v ^^^ prngByte b 0) :: acc).reverse ++ rest := by
      rw [xorNext_ws, Vector.toList_set, hb, hv]
      rw [hj]
      simp [← hacc]
    simp only [List.length_cons, forRange_succ_left, fastInner, forceByte_eq]
    have := ih ((v ^^^ prngByte b 0) :: acc) (j + 1) (xorNext b (wsIndex j) 0) (by simp [hacc])
      (by simp only [List.length_cons] at hlen; omega) hset
    simpa [prngByte] using this

/-- One outer step of finalize on a working state given as a list. -/
def fastPass (q : Nat) (ws : List Byte) : PassResult :=
  fastInner ws [] (ws.getD (4 * q) 0) (ws.getD (4 * q + 1) 0) (ws.getD (4 * q + 2) 0) (ws.getD (4 * q + 3) 0)

theorem wsGet_toList (b : Block) (i : Nat) (h : i < Config.wsSize) : wsGet b (wsIndex i) = b.ws.toList.getD i 0 := by
  have e : i % 128 = i := Nat.mod_eq_of_lt h
  have h' : i < b.ws.toList.length := by simpa using h
  rw [List.getD_eq_getElem?_getD, List.getElem?_eq_getElem h']
  simp [wsGet, wsIndex, e]

theorem finalizePass_eq (q : Nat) (hq : q < Config.finOuter) (b : Block) :
    let c := finalizePass q b
    let r := fastPass q b.ws.toList
    c.ws.toList = r.ws ∧ c.x = r.x ∧ c.y = r.y ∧ c.z = r.z ∧ c.w = r.w := by
  have hq' : q < 32 := hq
  have h0 := wsGet_toList b (4 * q) (show 4 * q < 128 by omega)
  have h1 := wsGet_toList b (4 * q + 1) (show 4 * q + 1 < 128 by omega)
  have h2 := wsGet_toList b (4 * q + 2) (show 4 * q + 2 < 128 by omega)
  have h3 := wsGet_toList b (4 * q + 3) (show 4 * q + 3 < 128 by omega)
  have := forRange_inner b.ws.toList [] 0
    (prngSeed b (wsGet b (wsIndex (4 * q))) (wsGet b (wsIndex (4 * q + 1))) (wsGet b (wsIndex (4 * q + 2)))
      (wsGet b (wsIndex (4 * q + 3)))) rfl (by simp) (by simp)
  simp only [prngSeed_x, prngSeed_y, prngSeed_z, prngSeed_w, h0, h1, h2, h3, Vector.length_toList] at this
  simpa [finalizePass, fastPass, h0, h1, h2, h3] using this

/-- The outer loop of finalize, n passes from pass q on. -/
def fastOuter (n q : Nat) (ws : List Byte) : List Byte :=
  match n with
  | 0 => ws
  | n + 1 => fastOuter n (q + 1) (fastPass q ws).ws

/-- finalize on a working state given as a list. -/
def fastFinalize (ws : List Byte) : List Byte := fastOuter Config.finOuter 0 ws

theorem forRange_outer (n : Nat) : ∀ (q : Nat) (b : Block), q + n ≤ Config.finOuter →
    (forRange q n finalizePass b).ws.toList = fastOuter n q b.ws.toList := by
  induction n with
  | zero => intro q b _; rfl
  | succ n ih =>
    intro q b h
    rw [forRange_succ_left, ih (q + 1) _ (by omega), (finalizePass_eq q (by omega) b).1]
    rfl

/-- The fast form computes the working state that finalize leaves. -/
theorem finalize_ws_eq (b : Block) : (finalize b).ws.toList = fastFinalize b.ws.toList :=
  forRange_outer Config.finOuter 0 b (by simp)

/-- fold from index i on, over a working state given as a list. -/
def fastFold (ws : List Byte) (n i : Nat) (fb : Byte) : List Byte :=
  match n with
  | 0 => []
  | n + 1 =>
    forceByte
      (BitVec.ofNat 8 ((ws.getD i 0).toNat + (ws.getD (i + 32) 0).toNat + (ws.getD (i + 64) 0).toNat
        + (ws.getD (i + 96) 0).toNat + fb.toNat))
      fun acc => acc :: fastFold ws n (i + 1) acc

theorem foldByte_eq (b : Block) (i : Nat) (h : i < 32) (fb : Byte) :
    foldByte b i fb = BitVec.ofNat 8 ((b.ws.toList.getD i 0).toNat + (b.ws.toList.getD (i + 32) 0).toNat
      + (b.ws.toList.getD (i + 64) 0).toNat + (b.ws.toList.getD (i + 96) 0).toNat + fb.toNat) := by
  unfold foldByte
  rw [wsGet_toList b i (show i < 128 by omega), wsGet_toList b (i + 32) (show i + 32 < 128 by omega),
    wsGet_toList b (i + 2 * 32) (show i + 2 * 32 < 128 by omega),
    wsGet_toList b (i + 3 * 32) (show i + 3 * 32 < 128 by omega)]

theorem forRange_fold (n : Nat) : ∀ (i : Nat) (b : Block) (fb : Byte), i + n = Config.digestSize →
    (forRange i n foldIndex (b, fb)).1.dig.toList = b.dig.toList.take i ++ fastFold b.ws.toList n i fb := by
  induction n with
  | zero =>
    intro i b fb h
    change i = 32 at h
    simp [fastFold, h]
  | succ n ih =>
    intro i b fb h
    have hi : i < 32 := by change i + (n + 1) = 32 at h; omega
    rw [forRange_succ_left]
    simp only [foldIndex]
    rw [ih (i + 1) _ _ (by omega), fastFold, forceByte_eq, ← foldByte_eq b i hi]
    rw [digSet_dig, digSet_ws, Vector.toList_set, List.take_add_one]
    simp [Nat.mod_eq_of_lt hi, hi, List.take_set_of_le]

/-- The fast form computes the digest that fold leaves. -/
theorem fold_dig_eq (b : Block) : (fold b).dig.toList = fastFold b.ws.toList 32 0 0 := by
  simpa [fold] using forRange_fold 32 0 b 0 rfl

/-- The digest END leaves, in the fast form. -/
theorem endBlock_dig_eq (b : Block) :
    (endBlock b).dig.toList = fastFold (fastFinalize (diffuse (padBlock b) (padBlock b).pos).ws.toList) 32 0 0 := by
  simp only [endBlock, setPhase_dig, fold_dig_eq, finalize_ws_eq]

end Sys2Proof.Machine
end

