-- ==== Sys2Proof/Laws/PerInstr.lean ====
section
/-! SUPPORT. The per-instruction family `WordShape`: the word of a command has the bits its row of the opcode map fixes,
and it is well formed. -/

namespace Sys2Proof.Laws.WordShape

/-- The command's word matches its row's match and mask (30_encoding.md R75), and its fields pass every check of
R77. -/
def Statement (i : Instr) : Prop :=
  encode i &&& rowMask i = rowMatch i ∧ (commandFields (encode i)).wellFormed = true

theorem start : Statement .start := ⟨by decide, by decide⟩

theorem byte : ∀ d, Statement (.byte d) := fun d => by
  constructor
  · simp [encode, assembleFields, instrFields, rowMask, rowMatch, opByte]; revert d; decide
  · simp [encode, assembleFields, instrFields, opByte]; revert d; decide

theorem endMessage : Statement .endMessage := ⟨by decide, by decide⟩

theorem seed : Statement .seed := ⟨by decide, by decide⟩

theorem next : ∀ d, Statement (.next d) := fun d => by
  constructor
  · simp [encode, assembleFields, instrFields, rowMask, rowMatch, opNext]; revert d; decide
  · simp [encode, assembleFields, instrFields, opNext]; revert d; decide

end Sys2Proof.Laws.WordShape
end

