-- ==== Sys2Proof/Tests/Slice0.lean ====
section
/-! SUPPORT. The model's own tests. Expected values come from 95_test_vectors.md, by the name of the vector or program;
then, for each statement with hypotheses, a state and operands that meet them. -/

namespace Sys2Proof.Tests

open Sys2Proof Sys2Proof.Machine

/-! ### Well-formedness: each check refuses an ill-formed word -/

theorem test_rsv_refused : (CommandFields.mk 0x02 0x01 0x0001).rsvClear = false := by decide

theorem test_op_zero_refused : (CommandFields.mk 0x00 0x00 0).opAssigned = false := by decide

theorem test_op_six_refused : (CommandFields.mk 0x06 0x00 0).opAssigned = false := by decide

theorem test_data_on_start_refused : (CommandFields.mk 0x01 0x01 0).dataClear = false := by decide

theorem test_byte_with_data_wellFormed : (CommandFields.mk 0x02 0xFF 0).wellFormed = true := by decide

/-! ### Decoding: words written out bit by bit from 30_encoding.md R72 and R75 (RSV, DATA, OP) -/

theorem test_decode_start : decode 0b0000000000000000_00000000_00000001 = .ok .start := by decide

theorem test_decode_byte : decode 0b0000000000000000_01100001_00000010 = .ok (.byte 0x61) := by decide

theorem test_decode_end : decode 0b0000000000000000_00000000_00000011 = .ok .endMessage := by decide

theorem test_decode_seed : decode 0b0000000000000000_00000000_00000100 = .ok .seed := by decide

theorem test_decode_next : decode 0b0000000000000000_10011010_00000101 = .ok (.next 0x9A) := by decide

/-- 95_test_vectors.md 2.8: RSV wins over the illegal opcode. -/
theorem test_decode_rsv_first : decode 0x000100FF = .error .reservedBits := by decide

/-- 2.8: 0x00 is no opcode. -/
theorem test_decode_zero : decode 0x00000000 = .error .illegalOpcode := by decide

/-- 2.8: an unassigned opcode with DATA set is an illegal opcode, not RESERVED_BITS. -/
theorem test_decode_unassigned_with_data : decode 0x00000106 = .error .illegalOpcode := by decide

/-- 2.8: END with DATA. -/
theorem test_decode_end_with_data : decode 0x00000103 = .error .reservedBits := by decide

theorem test_table_word_next : decodeTableWord 32 0x9A05 = some (.next 0x9A) := by decide

/-! ### States built for the tests -/

/-- The reset state with another block. -/
def withBlock (b : Block) : State := { State.reset with block := b }

/-- In ABSORBING, having taken the bytes 61 62 63 (95_test_vectors.md P1, after row 4). -/
def abcBlock : Block := { Block.reset with phase := .absorbing, x := 0x61, y := 0x62, z := 0x63, count := 3 }

/-- In ABSORBING, having taken the bytes 74 65 73 74 ("test", V-HASH-3). -/
def testBlock : Block :=
  { Block.reset with phase := .absorbing, x := 0x74, y := 0x65, z := 0x73, w := 0x74, count := 4, seeded := true }

/-- In ERROR after BYTE in IDLE (95_test_vectors.md P3, after row 1). -/
def errorBlock : Block := { Block.reset with phase := .error, errCode := 3, errCmd := 0x00004102 }

/-- In DONE. -/
def doneBlock : Block := { Block.reset with phase := .done, seeded := true, count := 4 }

/-- In IDLE with the PRNG bytes 01 02 03 04 (95_test_vectors.md P2, after row 2). -/
def seededBlock : Block := { Block.reset with x := 1, y := 2, z := 3, w := 4, arg := 0x04030201 }

/-- The block after one step of the machine on a command word, none if there is no next state. -/
def blockAfter (b : Block) (w : Nat) : Option Block :=
  match step ((withBlock b).withFetchWord 32 w) with
  | .next t => some t.block
  | .fault _ => none
  | .refused _ => none

/-! ### The commands, one step each -/

/-- 95_test_vectors.md P3 row 4: START leaves ERROR. -/
theorem test_start_from_error : (blockAfter errorBlock 0x00000001).map statusWord = some 0x00000001 := by decide

/-- R112: START keeps ARG. -/
theorem test_start_keeps_arg : (blockAfter seededBlock 0x00000001).map Block.arg = some 0x04030201 := by decide

/-- V-ABS-4: the third BYTE fills Z. -/
theorem test_byte_third :
    (blockAfter { abcBlock with z := 0, count := 2 } 0x00006302).map (fun b => (readReg b .prng, b.count, seqWord b))
      = some (0x00636261, 3, 0) := by decide

/-- 95_test_vectors.md P4 row 6: after 68 65 6C 6C, BYTE 6F gives PRNG 016C6C65, RESULT 01, SEQ 104. -/
theorem test_byte_fifth :
    (blockAfter { testBlock with x := 0x68, y := 0x65, z := 0x6C, w := 0x6C } 0x00006F02).map
        (fun b => (readReg b .prng, readReg b .result, readReg b .seq, b.count))
      = some (0x016C6C65, 0x00000001, 0x00000104, 5) := by decide

/-- P1 row 5: END after "abc" leaves DONE, COUNT 4, POS 0, SEEDED 1. -/
theorem test_end_abc_status :
    (blockAfter abcBlock 0x00000003).map (fun b => (statusWord b, b.count, seqWord b))
      = some (0x00000002, 4, 0x00000100) := by decide +kernel

/-- V-HASH-3: the digest of "test". -/
theorem test_end_digest :
    (endBlock testBlock).dig.toList =
      [0x9A, 0x49, 0x54, 0xA3, 0xEF, 0xA4, 0x08, 0x2B, 0x0A, 0xF5, 0x54, 0x11, 0x94, 0x94, 0xA4, 0xD5,
       0xC5, 0x54, 0x83, 0x49, 0x4C, 0x57, 0x9F, 0xC7, 0x9C, 0x5D, 0xC7, 0xE1, 0xD7, 0x80, 0x94, 0xA9] := by
  rw [endBlock_dig_eq]
  decide +kernel

/-- P2 row 2: SEED takes X from ARG[7:0]. -/
theorem test_seed :
    (blockAfter { Block.reset with arg := 0x04030201 } 0x00000004).map (fun b => (b.x, b.y, b.z, b.w, b.out))
      = some (1, 2, 3, 4, 0) := by decide

/-- P3 row 2: SEED is discarded in ERROR. -/
theorem test_seed_in_error : blockAfter errorBlock 0x00000004 = some errorBlock := by decide +kernel

/-- P2 row 3: NEXT 0x05. -/
theorem test_next :
    (blockAfter seededBlock 0x00000505).map (fun b => (readReg b .prng, readReg b .result))
      = some (0x3A040302, 0x0000003A) := by decide

/-- 95_test_vectors.md 2.8: NEXT in ABSORBING. -/
theorem test_next_in_absorbing :
    (blockAfter abcBlock 0x0000FF05).map (fun b => (statusWord b, b.errCmd, b.x)) = some (0x00000303, 0x0000FF05, 0x61) := by
  decide

/-- P3 row 1: BYTE in IDLE. -/
theorem test_byte_in_idle : blockAfter Block.reset 0x00004102 = some errorBlock := by decide +kernel

/-- 2.8: an illegal word in DONE. -/
theorem test_illegal_in_done :
    (blockAfter doneBlock 0x000000FF).map (fun b => (statusWord b, b.errCmd)) = some (0x00000203, 0x000000FF) := by decide

/-! ### The digest functions -/

/-- V-PRNG-1, the general row. -/
theorem test_prng_next :
    (prngMix 0x12 0x9A, prngByte (prngSeed Block.reset 0x12 0x34 0x56 0x78) 0x9A) = (0x18, 0x3C) := by decide

/-- V-PRNG-1, all ones. -/
theorem test_prng_next_ones :
    (prngMix 0xFF 0xFF, prngByte (prngSeed Block.reset 0xFF 0xFF 0xFF 0xFF) 0xFF) = (0xF8, 0x98) := by decide

/-- L1-1: an aligned message gains a whole block. -/
theorem test_pad_aligned : pad [0x74, 0x65, 0x73, 0x74] = [0x74, 0x65, 0x73, 0x74, 4, 4, 4, 4] := by decide

/-- L1-1: the source's own vector. -/
theorem test_pad_abc : pad [97, 98, 99] = [97, 98, 99, 1] := by decide

/-- V-ABS-1: ws[0] after absorbing the padded empty message. -/
theorem test_absorb_empty : wsGet (absorb [4, 4, 4, 4] Block.reset) 0 = 0xB3 := by decide +kernel

/-- V-FOLD-2: ws[k] = k. -/
theorem test_fold_ramp :
    ((fold { Block.reset with ws := Vector.ofFn (fun i => BitVec.ofNat 8 i.val) }).dig.toList.take 3) = [0xC0, 0x84, 0x4C] := by
  decide +kernel

/-- V-FIN-2: ws[0..3] of finalize of ws[k] = k. -/
theorem test_finalize_ramp :
    (finalize { Block.reset with ws := Vector.ofFn (fun i => BitVec.ofNat 8 i.val) }).ws.toList.take 4
      = [0xA1, 0x4E, 0x50, 0xC5] := by
  rw [finalize_ws_eq]
  decide +kernel

/-! ### Host accesses and steps -/

/-- 2.9: a STATUS read while busy in ABSORBING, at once. -/
theorem test_status_while_busy :
    (busAccess (fillLatch abcBlock 0x00001002) (.read 4 0x008)).map Prod.snd = some (.data 0x00000011) := by decide

/-- 2.9: a COUNT read while busy stalls. -/
theorem test_count_while_busy : busAccess (fillLatch abcBlock 0x00001002) (.read 4 0x018) = none := by decide

/-- 2.9: a read of an unmapped offset, also while busy. -/
theorem test_unmapped : (busAccess (fillLatch abcBlock 1) (.read 4 0x180)).map Prod.snd = some (.busError 0x180) := by decide

/-- 2.9: a write to STATUS. -/
theorem test_write_read_only : (busAccess abcBlock (.write 4 0x008 1)).map Prod.snd = some (.busError 0x008) := by decide

/-- 2.9: an 8-bit read. -/
theorem test_narrow_read : (busAccess abcBlock (.read 1 0x008)).map Prod.snd = some (.busError 0x008) := by decide

/-- 70_reset_and_hazards.md R138: reset discards a pending command. -/
theorem test_reset_input :
    (match step { withBlock (fillLatch abcBlock 1) with inputs := [.reset], turns := [.host] } with
      | .next t => t.block
      | .fault _ => abcBlock
      | .refused _ => abcBlock) = Block.reset := by decide +kernel

/-- 30_encoding.md R79, R80: a line of text and what it stands for. -/
theorem test_assembler :
    (readLine ['S', 'E', 'E', 'D', 'B', ' ', '1', ',', ' ', '2', ',', '0', 'x', '0', '3', ',', '4', ' ', ';', 'x']).map programInputs
      = some [writeArg 0x04030201, writeCmd 0x00000004] := by decide

/-! ### For each statement with hypotheses, operands that meet them -/

/-- A word of each clause of MatchMaskSelectsCommand. -/
theorem test_witness_MatchMaskSelectsCommand :
    (0x0000FF02 : Word) &&& 0xFFFF00FF = 0x00000002 ∧ (0x0000FF05 : Word) &&& 0xFFFF00FF = 0x00000005 ∧
    (0x00000006 : Word).extractLsb' 16 16 = 0 ∧ 6 ≤ ((0x00000006 : Word).extractLsb' 0 8).toNat ∧
    (0x0000FF02 : Word) &&& rowMask (.byte 0) = rowMatch (.byte 0) := by decide

theorem test_witness_EncodeOfDecodeIsIdentity : decode 0x0000FF02 = .ok (.byte 0xFF) := by decide

/-- A word for each clause of DecoderFollowsTestOrder, at the boundaries of the opcode range. -/
theorem test_witness_DecoderFollowsTestOrder :
    (0x00010000 : Word).extractLsb' 16 16 ≠ 0 ∧
    ¬ (1 ≤ ((0x00000006 : Word).extractLsb' 0 8).toNat ∧ ((0x00000006 : Word).extractLsb' 0 8).toNat ≤ 5) ∧
    ¬ (1 ≤ ((0x0000FF00 : Word).extractLsb' 0 8).toNat ∧ ((0x0000FF00 : Word).extractLsb' 0 8).toNat ≤ 5) ∧
    ((0x0000FF04 : Word).extractLsb' 0 8).toNat = 4 ∧ ((0x0000FF04 : Word).extractLsb' 8 8 : Byte) ≠ 0 ∧
    ((0x00000001 : Word).extractLsb' 0 8).toNat = 1 ∧ ((0x00000001 : Word).extractLsb' 8 8 : Byte) = 0 ∧
    ((0x0000FF02 : Word).extractLsb' 0 8).toNat = 2 ∧ ((0x00000003 : Word).extractLsb' 0 8).toNat = 3 ∧
    ((0x00000004 : Word).extractLsb' 0 8).toNat = 4 ∧ ((0x0000FF05 : Word).extractLsb' 0 8).toNat = 5 := by decide

/-- Two states and their XOR. -/
theorem test_witness_PrngNextIsLinear :
    (prngSeed Block.reset 3 0 0 0x81).x = (prngSeed Block.reset 1 0 0 0x80).x ^^^ (prngSeed Block.reset 2 0 0 0x01).x ∧
    (prngSeed Block.reset 3 0 0 0x81).w = (prngSeed Block.reset 1 0 0 0x80).w ^^^ (prngSeed Block.reset 2 0 0 0x01).w ∧
    (prngSeed Block.reset 3 0 0 0x81).y = (prngSeed Block.reset 1 0 0 0x80).y ^^^ (prngSeed Block.reset 2 0 0 0x01).y ∧
    (prngSeed Block.reset 3 0 0 0x81).z = (prngSeed Block.reset 1 0 0 0x80).z ^^^ (prngSeed Block.reset 2 0 0 0x01).z := by
  decide

/-- Two blocks with the same PRNG bytes and different COUNT. -/
theorem test_witness_PrngNextFootprint :
    abcBlock.x = ({ abcBlock with count := 9 } : Block).x ∧ abcBlock.y = ({ abcBlock with count := 9 } : Block).y ∧
    abcBlock.z = ({ abcBlock with count := 9 } : Block).z ∧ abcBlock.w = ({ abcBlock with count := 9 } : Block).w := by
  decide

theorem test_witness_FinalizeReadsOnlyWorkingState : (wsSet abcBlock 5 7).ws = (wsSet Block.reset 5 7).ws := by decide +kernel

theorem test_witness_FinalizeKeepsZero : wsClear abcBlock := by decide +kernel

/-- Blocks a, b with one nonzero byte each, and their XOR; two padded messages of one length. -/
theorem test_witness_FinalizeAndAbsorbAreLinear :
    (∀ i, wsGet (wsSet (wsSet Block.reset 0 3) 127 4) i
      = wsGet (wsSet Block.reset 0 3) i ^^^ wsGet (wsSet Block.reset 127 4) i) ∧
    (pad [1, 2, 3]).length = (pad [4]).length ∧ 4 ≤ (pad [1, 2, 3]).length ∧ (pad [1, 2, 3]).length % 4 = 0 := by decide

/-- The boundary index of FoldIsPrefixSum's second clause. -/
theorem test_witness_FoldIsPrefixSum : (31 : BitVec 5) ≠ 0 ∧ (1 : BitVec 5) ≠ 0 := by decide

/-- A state for each clause of ByteFillsTheSeed: COUNT 0, 1, 2 and 3. -/
theorem test_witness_ByteFillsTheSeed :
    abcBlock.phase = .absorbing ∧ abcBlock.seeded = false ∧
    ({ abcBlock with count := 0 } : Block).count.toNat % 4 = 0 ∧ ({ abcBlock with count := 1 } : Block).count.toNat % 4 = 1 ∧
    ({ abcBlock with count := 2 } : Block).count.toNat % 4 = 2 ∧ abcBlock.count.toNat % 4 = 3 := by decide

theorem test_witness_ByteFoldsIntoWorkingState :
    testBlock.phase = .absorbing ∧ testBlock.seeded = true ∧ (5 : WsIndex) ≠ BitVec.ofNat 7 (testBlock.count.toNat % 128) := by
  decide

/-- Consistency of "abc" in progress, written out, for EndProducesTheDigest and StepKeepsConsistency. -/
theorem test_consistent_abc : Consistent abcBlock := by
  constructor <;> decide +kernel

theorem test_witness_EndProducesTheDigest : abcBlock.phase = .absorbing ∧ Consistent abcBlock :=
  ⟨rfl, test_consistent_abc⟩

theorem test_witness_SeedLoadsArg : seededBlock.phase = .idle ∧ doneBlock.phase = .done := by decide

theorem test_witness_NextRunsThePrngOnce : seededBlock.phase = .idle ∧ doneBlock.phase = .done := by decide

theorem test_witness_StartFrame : ∃ t, exec .start (withBlock errorBlock) = .next t := ⟨_, rfl⟩

/-- BYTE answers a next state in each case ByteFrame speaks of: folding, seeding, out of sequence. -/
theorem test_witness_ByteFrame :
    (∃ t, exec (.byte 1) (withBlock testBlock) = .next t) ∧ testBlock.phase = .absorbing ∧ testBlock.seeded = true ∧
    (∃ t, exec (.byte 1) (withBlock abcBlock) = .next t) ∧ abcBlock.seeded = false ∧
    (∃ t, exec (.byte 1) (withBlock doneBlock) = .next t) ∧ doneBlock.phase ≠ .absorbing :=
  ⟨⟨_, rfl⟩, rfl, rfl, ⟨_, rfl⟩, rfl, ⟨_, rfl⟩, by decide⟩

theorem test_witness_EndFrame :
    (∃ t, exec .endMessage (withBlock testBlock) = .next t) ∧ testBlock.phase = .absorbing ∧
    (∃ t, exec .endMessage (withBlock doneBlock) = .next t) ∧ doneBlock.phase ≠ .absorbing :=
  ⟨⟨_, rfl⟩, rfl, ⟨_, rfl⟩, by decide⟩

theorem test_witness_SeedAndNextFrame :
    (∃ t, exec .seed (withBlock doneBlock) = .next t) ∧ doneBlock.phase ≠ .absorbing ∧
    (∃ t, exec (.next 1) (withBlock abcBlock) = .next t) ∧ abcBlock.phase = .absorbing ∧
    (∃ t, exec (.next 1) (withBlock errorBlock) = .next t) ∧ errorBlock.phase = .error :=
  ⟨⟨_, rfl⟩, by decide, ⟨_, rfl⟩, rfl, ⟨_, rfl⟩, rfl⟩

theorem test_witness_OutOfSequenceEntersError :
    doneBlock.phase ≠ .error ∧ ¬ LegalIn .endMessage doneBlock.phase ∧ ¬ LegalIn .seed abcBlock.phase := by
  refine ⟨by decide, ?_, ?_⟩ <;> simp [LegalIn, doneBlock, abcBlock]

/-- A state that executes the word w next. -/
def pending (b : Block) (w : Word) : State := withBlock (fillLatch b w)

theorem executes_pending (b : Block) (w : Word) : Executes (pending b w) w := ⟨rfl, .inl rfl⟩

theorem test_witness_UndecodableWordEntersError :
    Executes (pending doneBlock 0x00010102) 0x00010102 ∧ doneBlock.phase ≠ .error ∧
    decode 0x00010102 = .error .reservedBits ∧ Executes (pending abcBlock 0) 0 ∧ decode 0 = .error .illegalOpcode :=
  ⟨executes_pending _ _, by decide, by decide, executes_pending _ _, by decide⟩

theorem test_witness_ErrorPhaseDiscards :
    Executes (pending errorBlock 0x00000101) 0x00000101 ∧ Executes (pending errorBlock 1) 1 ∧ errorBlock.phase = .error :=
  ⟨executes_pending _ _, executes_pending _ _, rfl⟩

/-- A state for each clause of LegalityByPhase. -/
theorem test_witness_LegalityByPhase :
    Executes (pending abcBlock 0x00000003) 0x00000003 ∧ decode 0x00000003 = .ok .endMessage ∧
    LegalIn .endMessage abcBlock.phase ∧ Executes (pending doneBlock 0x00000003) 0x00000003 ∧
    ¬ LegalIn .endMessage doneBlock.phase ∧ Executes (pending errorBlock 1) 1 ∧ Executes (pending errorBlock 3) 3 :=
  ⟨executes_pending _ _, by decide, rfl, executes_pending _ _, by simp [LegalIn, doneBlock], executes_pending _ _,
    executes_pending _ _⟩

theorem test_witness_StepRunsTheDecodedCommand :
    Executes (pending abcBlock 0x00006302) 0x00006302 ∧ decode 0x00006302 = .ok (.byte 0x63) :=
  ⟨executes_pending _ _, by decide⟩

theorem test_witness_StepKeepsConsistency : Consistent (pending abcBlock 1).block ∧ ∃ t, step (pending abcBlock 1) = .next t :=
  ⟨by constructor <;> decide +kernel, ⟨_, rfl⟩⟩

/-- A reset input that takes place with a command pending. -/
theorem test_witness_ResetSetsEveryElement :
    ResetTakesPlace { pending abcBlock 1 with inputs := [.reset], turns := [.host] } := ⟨.inr rfl, _, rfl⟩

theorem test_witness_IdleOnlyByReset :
    (∃ t, step { withBlock doneBlock with inputs := [.reset] } = .next t ∧ t.block.phase = .idle) ∧ doneBlock.phase ≠ .idle :=
  ⟨⟨_, rfl, rfl⟩, by decide⟩

theorem test_witness_ErrorLeftOnlyByStartOrReset :
    (∃ t, step (pending errorBlock 3) = .next t) ∧ errorBlock.phase = .error ∧ ¬ ResetTakesPlace (pending errorBlock 3) ∧
    ¬ Executes (pending errorBlock 3) 1 := by
  refine ⟨⟨_, rfl⟩, rfl, ?_, ?_⟩
  · rintro ⟨_, _, h⟩; cases h
  · rintro ⟨h, _⟩; exact absurd h (by decide)

/-- SeededFromTheFourthByte: a step that is neither START nor reset, from a seeded state; one from an unseeded one; and a
message of three bytes. -/
theorem test_witness_SeededFromTheFourthByte :
    (∃ t, step (pending testBlock 0x00000102) = .next t) ∧ testBlock.seeded = true ∧
    ¬ Executes (pending testBlock 0x00000102) 1 ∧ ¬ ResetTakesPlace (pending testBlock 0x00000102) ∧
    (∃ t, step (pending { abcBlock with count := 2 } 0x00000102) = .next t ∧ t.block.seeded = false) ∧
    Consistent (pending { abcBlock with count := 2 } 0x00000102).block ∧ ([1, 2, 3] : List Byte).length < 4 := by
  refine ⟨⟨_, rfl⟩, rfl, ?_, ?_, ⟨_, rfl, by decide⟩, by constructor <;> decide +kernel, by decide⟩
  · rintro ⟨h, _⟩; exact absurd h (by decide)
  · rintro ⟨_, _, h⟩; cases h

/-- DigestWrittenOnlyByStartEndReset: a step of each kind it speaks of. -/
theorem test_witness_DigestWrittenOnlyByStartEndReset :
    (∃ t, step (pending doneBlock 5) = .next t) ∧ ¬ ResetTakesPlace (pending doneBlock 5) ∧ ¬ Executes (pending doneBlock 5) 1 ∧
    ¬ Executes (pending doneBlock 5) 3 ∧ (∃ t, step (pending doneBlock 1) = .next t) ∧ Executes (pending doneBlock 1) 1 ∧
    (∃ t, step (pending abcBlock 3) = .next t) ∧ Executes (pending abcBlock 3) 3 ∧ abcBlock.phase = .absorbing := by
  refine ⟨⟨_, rfl⟩, ?_, ?_, ?_, ⟨_, rfl⟩, executes_pending _ _, ⟨_, rfl⟩, executes_pending _ _, rfl⟩
  · rintro ⟨_, _, h⟩; cases h
  · rintro ⟨h, _⟩; exact absurd h (by decide)
  · rintro ⟨h, _⟩; exact absurd h (by decide)

/-- A write to ARG taking place. -/
theorem test_witness_HostWritesOnlyArgAndLatch :
    (∃ t, step { withBlock abcBlock with inputs := [writeArg 7] } = .next t ∧ t.block.arg = 7) ∧
    ¬ ResetTakesPlace { withBlock abcBlock with inputs := [writeArg 7] } ∧
    ∀ w, ¬ Executes { withBlock abcBlock with inputs := [writeArg 7] } w := by
  refine ⟨⟨_, rfl, rfl⟩, ?_, ?_⟩
  · rintro ⟨_, _, h⟩; cases h
  · rintro w ⟨h, _⟩; cases h

theorem test_witness_RegisterMapIsOneToOne : regAt 0x17C = some (.ws 31) ∧ regAt 0x21C = some (.digest 7) := by decide

/-- An access of each kind of bus error, and a busy state in which one takes place. -/
theorem test_witness_BusErrorConditions :
    accessWidth (.read 2 0x008) ≠ 4 ∧ (accessOffset (.read 4 0x002)).toNat % 4 ≠ 0 ∧ regAt 0x220 = none ∧
    accessWrites (.write 4 0x200 0) = true ∧ HostMay { pending abcBlock 1 with turns := [.host] } :=
  ⟨by decide, by decide, by decide, by decide, .inr rfl⟩

theorem test_witness_CmdWriteLatchesOrStalls : abcBlock.latch = none ∧ (fillLatch abcBlock 1).latch ≠ none := by decide

theorem test_witness_ArgKeptWhileCommandPending :
    abcBlock.latch = none ∧ (pending abcBlock 1).block.latch ≠ none ∧ ¬ ResetTakesPlace (pending abcBlock 1) ∧
    ∃ t, step (pending abcBlock 1) = .next t := by
  refine ⟨rfl, by decide, ?_, ⟨_, rfl⟩⟩
  rintro ⟨_, _, h⟩; cases h

theorem test_witness_ReadsStallWhileBusyButStatus :
    Reg.ws 31 ≠ Reg.status ∧ (fillLatch abcBlock 1).latch ≠ none ∧ abcBlock.latch = none ∧
    busAccess abcBlock (.read 4 0x17C) = some (abcBlock, .data 0) := by decide +kernel

theorem test_witness_StalledAccessWaitsForTheCore :
    busAccess (fillLatch abcBlock 1) (.read 4 0x018) = none ∧
    ∃ t, step { pending abcBlock 1 with inputs := [readInput .count], turns := [.host] } = .next t :=
  ⟨by decide, ⟨_, rfl⟩⟩

theorem test_witness_AccessTakesPlace :
    HostMay { pending abcBlock 1 with inputs := [readInput .status], turns := [.host] } ∧
    busAccess (fillLatch abcBlock 1) (.read 4 0x008) = some (fillLatch abcBlock 1, .data 0x00000011) :=
  ⟨.inr rfl, by decide +kernel⟩

/-- A byte offset at the boundary of WindowsReadBytesLittleEndian. -/
theorem test_witness_WindowsReadBytesLittleEndian :
    (3 : Nat) < 4 ∧ (readReg (wsSet Block.reset 127 0xAB) (.ws 31)).extractLsb' (8 * 3) 8 = (0xAB : Byte) := by decide

/-- The empty message with a read, a WAIT, a write to ARG and a narrow write to CMD (a bus error) around its commands. -/
def busyMid : List Input :=
  [readInput .status, writeCmd 1, .wait, writeArg 7, .access (.write 1 0x000 5), writeCmd 3, readInput .count]

theorem test_witness_MessageProgramComputesHash :
    (∃ s : State, s.block.latch = none ∧ s.inputs = programInputs [.start, .msg [0x61, 0x62, 0x63], .endMessage]) ∧
    ∃ (s : State) (rest : List Input), s.block.latch = none ∧ s.inputs = busyMid ++ rest ∧
      busyMid.filterMap cmdWrite = (messageCommands []).map encode ∧ Input.reset ∉ busyMid ∧
      ∀ i, rest.head? = some i → HeldWhileBusy i := by
  refine ⟨⟨{ withBlock errorBlock with inputs := programInputs [.start, .msg [0x61, 0x62, 0x63], .endMessage] }, rfl, rfl⟩,
    { withBlock errorBlock with inputs := busyMid ++ [.wait, .reset], turns := [.host, .core] }, [.wait, .reset], rfl, rfl,
    by decide, by decide, fun i h => .inl (by simpa using h.symm)⟩

/-- 20_memory.md R60: a write to CMD is held while a command is pending. -/
theorem test_cmd_write_held (v : Word) : HeldWhileBusy (writeCmd v) :=
  .inr ⟨_, rfl, fun b h => by cases hl : b.latch <;> simp_all [busAccess, isBusError, accessWidth, accessOffset, accessWrites,
    regAt, regWritable, busy, Config.hostBytes]⟩

/-- Two different states from which the commands of a message complete. -/
theorem test_witness_NothingBeforeStartReachesTheDigest :
    (∃ t, execAll (messageCommands [0x61]) (withBlock errorBlock) = .next t) ∧
    ∃ t, execAll (messageCommands [0x61]) (withBlock seededBlock) = .next t :=
  ⟨⟨_, rfl⟩, ⟨_, rfl⟩⟩

/-- Two runs of one input (a STATUS read with a command pending), in either order, that come to rest. -/
theorem test_witness_InterleavingDoesNotMatter :
    (∃ t, run 2 { pending abcBlock 1 with inputs := [readInput .status], turns := [.host] } = .next t ∧ Quiescent t) ∧
    ∃ t, run 2 { pending abcBlock 1 with inputs := [readInput .status], turns := [.core] } = .next t ∧ Quiescent t :=
  ⟨⟨_, rfl, rfl, rfl⟩, ⟨_, rfl, rfl, rfl⟩⟩

theorem test_witness_SeedbLoadsThePrng :
    seededBlock.latch = none ∧ seededBlock.phase = .idle ∧ doneBlock.phase = .done ∧
    ({ withBlock doneBlock with inputs := stmtInputs (.seedb 1 2 3 4) } : State).inputs = stmtInputs (.seedb 1 2 3 4) := by
  decide

/-- Two instances at neighbouring windows. -/
def twoInstances : Platform := ⟨[⟨0x10000, State.reset⟩, ⟨0x11000, pending abcBlock 1⟩]⟩

theorem test_witness_InstancesShareNothing : platformWf twoInstances = true ∧ ∃ q, platformStep twoInstances 1 = .next q :=
  ⟨by decide, ⟨_, rfl⟩⟩

/-- The last offset of a window, and an address past every window. -/
theorem test_witness_AddressReachesItsInstance :
    platformWf twoInstances = true ∧ twoInstances.instances[1]? = some ⟨0x11000, pending abcBlock 1⟩ ∧
    (∀ i ∈ twoInstances.instances, 0x12000 < i.base ∨ i.base + 4096 ≤ 0x12000) := by decide +kernel

end Sys2Proof.Tests
end

section
/-! The encoder undoes the decoder; and what a step can do to the block, said once, by the agent that
moves. -/

namespace Sys2Proof.Machine

/-! ### A decoded word is the word of its command (30_encoding.md R75) -/

/-- The fields of a command word lose nothing. -/
theorem assembleFields_commandFields (w : Word) : assembleFields (commandFields w) = w := by
  refine BitVec.eq_of_getLsbD_eq fun i hi => ?_
  change (w.extractLsb' 16 16 ++ w.extractLsb' 8 8 ++ w.extractLsb' 0 8).getLsbD i = _
  simp only [BitVec.getLsbD_append, BitVec.getLsbD_extractLsb']
  grind

/-- A word decodes only to the command whose fields it has. -/
theorem commandFields_of_decode {w : Word} {i : Instr} (h : decode w = .ok i) : commandFields w = instrFields i := by
  unfold decode at h
  generalize commandFields w = f at h ⊢
  obtain ⟨op, data, rsv⟩ := f
  simp only [List.mem_cons, List.not_mem_nil, or_false] at h
  split_ifs at h <;> obtain rfl := Except.ok.inj h <;> simp_all [instrFields]

theorem encode_of_decode {w : Word} {i : Instr} (h : decode w = .ok i) : encode i = w := by
  rw [encode, ← commandFields_of_decode h, assembleFields_commandFields]

/-- The word 0x00000001 alone decodes to START. -/
theorem eq_startWord_of_decode {w : Word} (h : decode w = .ok .start) : w = startWord :=
  (encode_of_decode h).symm

theorem decode_startWord : decode startWord = .ok .start := by decide

/-! ### The effect of each agent on the block -/

/-- What a command does to the block where it is legal (45_commands.md R112 to R116). -/
def commandEffect (i : Instr) (b : Block) : Block :=
  match i with
  | .start => startBlock b
  | .byte d => absorbByte b d
  | .endMessage => endBlock b
  | .seed => seedBlock b
  | .next d => prngNext b d

/-- Every meaning is the frame of R110 around the command's effect. -/
theorem exec_eq_perform (i : Instr) (s : State) : exec i s = perform i (commandEffect i) s := by
  cases i <;> rfl

/-- What a host access, a WAIT poll or an idle step can do to the block (20_memory.md R57, R60 to R62). -/
inductive HostEffect (b c : Block) : Prop where
  | same (h : c = b)
  | latched (v : Word) (hl : b.latch = none) (h : c = fillLatch b v)
  | argWritten (v : Word) (hl : b.latch = none) (h : c = setArg b v)

/-- What the core step on the latched word w can do to the block (45_commands.md R110, 60_exceptions.md R124, R127). -/
inductive CoreEffect (w : Word) (b c : Block) : Prop where
  | discarded (hp : b.phase = .error) (hw : w ≠ startWord) (h : c = emptyLatch b)
  | undecodable (e : CmdError) (hp : b.phase ≠ .error) (hd : decode w = .error e) (h : c = enterError e w (emptyLatch b))
  | outOfSequence (i : Instr) (hd : decode w = .ok i) (hi : legality i b.phase = .illegal)
      (h : c = enterError .illegalSequence w (emptyLatch b))
  | runs (i : Instr) (hd : decode w = .ok i) (hi : legality i b.phase = .ok) (h : c = commandEffect i (emptyLatch b))

/-- What a step of s can do to the block, by the agent that moves. -/
inductive StepEffect (s : State) (c : Block) : Prop where
  | reset (hr : ResetTakesPlace s) (hx : ∀ w, ¬ Executes s w) (h : c = Block.reset)
  | host (hx : ∀ w, ¬ Executes s w) (h : HostEffect s.block c)
  | core (w : Word) (hx : Executes s w) (h : CoreEffect w s.block c)

/-- START is legal in every phase (30_encoding.md R78). -/
@[simp] theorem legality_start (p : Phase) : legality .start p = .ok := rfl

theorem legality_eq_discarded {i : Instr} {p : Phase} (h : legality i p = .discarded) : p = .error ∧ i ≠ .start := by
  cases i <;> cases p <;> simp_all [legality]

theorem eq_start_of_legality_error {i : Instr} (h : legality i .error = .ok) : i = .start := by
  cases i <;> simp_all [legality]

theorem phase_of_legality_byte {d : Byte} {p : Phase} (h : legality (.byte d) p = .ok) : p = .absorbing := by
  cases p <;> simp_all [legality]

theorem phase_of_legality_endMessage {p : Phase} (h : legality .endMessage p = .ok) : p = .absorbing := by
  cases p <;> simp_all [legality]

/-- A move of the host changes at most ARG and LATCH (10_state.md R26). -/
theorem HostEffect.frame {b c : Block} (h : HostEffect b c) : c = { b with arg := c.arg, latch := c.latch } := by
  cases h with
  | same h => exact h ▸ rfl
  | latched v _ h => exact h ▸ rfl
  | argWritten v _ h => exact h ▸ rfl

/-- The core step on the word of a legal command runs it. -/
theorem CoreEffect.eq_commandEffect {w : Word} {b c : Block} (h : CoreEffect w b c) {i : Instr} (hd : decode w = .ok i)
    (hi : legality i b.phase = .ok) : c = commandEffect i (emptyLatch b) := by
  cases h with
  | discarded hp hw _ =>
    obtain rfl := eq_start_of_legality_error (hp ▸ hi)
    exact absurd (eq_startWord_of_decode hd) hw
  | undecodable e _ he _ => simp [hd] at he
  | outOfSequence j hj hl _ =>
    obtain rfl : i = j := by simpa [hd] using hj
    simp [hi] at hl
  | runs j hj _ hc =>
    obtain rfl : i = j := by simpa [hd] using hj
    exact hc

theorem hostMove_effect {s t : State} (h : hostMove s = some t) :
    HostEffect s.block t.block ∨ ((∃ rest, s.inputs = .reset :: rest) ∧ t.block = Block.reset) := by
  obtain ⟨a, rest, b, r, -, hb, rfl⟩ | ⟨rest, -, rfl⟩ | ⟨rest, hi, rfl⟩ := hostMove_cases h
  · obtain rfl | ⟨hl, v, rfl⟩ | ⟨hl, v, rfl⟩ := busAccess_cases hb
    · exact .inl (.same rfl)
    · exact .inl (.latched v hl rfl)
    · exact .inl (.argWritten v hl rfl)
  · exact .inl (.same rfl)
  · exact .inr ⟨⟨rest, hi⟩, rfl⟩

theorem coreStep_effect {w : Word} {s t : State} (h : coreStep w s = .next t) : CoreEffect w s.block t.block := by
  by_cases hdisc : s.block.phase = .error ∧ w ≠ startWord
  · have ht : coreStep w s = .next (s.mapBlock emptyLatch) := by simp [coreStep, hdisc]
    obtain rfl : s.mapBlock emptyLatch = t := by simpa [ht] using h
    exact .discarded hdisc.1 hdisc.2 rfl
  obtain ⟨hp, hw, -⟩ | ⟨e, hd, ht⟩ | ⟨i, hd, ht⟩ := coreStep_cases w s
  · exact absurd ⟨hp, hw⟩ hdisc
  · obtain rfl : (s.mapBlock emptyLatch).mapBlock (enterError e w) = t := by simpa [ht] using h
    refine .undecodable e (fun hp => hdisc ⟨hp, ?_⟩) hd rfl
    rintro rfl
    simp [decode_startWord] at hd
  · rw [ht, exec_eq_perform] at h
    obtain ⟨hi, hp⟩ | ⟨hi, hp⟩ | ⟨hi, hp⟩ := perform_cases i (commandEffect i) (s.mapBlock emptyLatch)
    · obtain rfl : (s.mapBlock emptyLatch).mapBlock (commandEffect i) = t := by simpa [hp] using h
      exact .runs i hd hi rfl
    · obtain rfl : (s.mapBlock emptyLatch).mapBlock (enterError .illegalSequence (encode i)) = t := by
        simpa [hp] using h
      exact .outOfSequence i hd hi (by rw [encode_of_decode hd]; rfl)
    · obtain ⟨he, hne⟩ := legality_eq_discarded hi
      refine absurd ⟨he, ?_⟩ hdisc
      rintro rfl
      simp [decode_startWord] at hd
      exact hne hd.symm

/-- The core does not move where LATCH is empty, or where the host has the turn and moves. -/
theorem not_executes_of_empty {s : State} (h : s.block.latch = none) (w : Word) : ¬ Executes s w := by
  simp [Executes, h]

theorem not_executes_of_hostMove {s t : State} (ht : turnOf s = .host) (hm : hostMove (takeTurn s) = some t) (w : Word) :
    ¬ Executes s w := by
  simp [Executes, CoreMoves, ht, hm]

/-- What a host move does in a step in which the host may move. -/
theorem StepEffect.of_hostMove {s u t : State} (hb : u.block = s.block) (hi : u.inputs = s.inputs) (hmay : HostMay s)
    (hx : ∀ w, ¬ Executes s w) (h : hostMove u = some t) : StepEffect s t.block := by
  obtain he | ⟨hr, ht⟩ := hostMove_effect h
  · exact .host hx (hb ▸ he)
  · exact .reset ⟨hmay, hi ▸ hr⟩ hx ht

/-- What a step can do to the block. -/
theorem step_effect {s t : State} (h : step s = .next t) : StepEffect s t.block := by
  unfold step at h
  obtain ⟨hl, -, hs⟩ | ⟨u, hl, hm, hs⟩ | ⟨w, u, hl, ht, hm, hs⟩ | ⟨w, hl, ht, hs⟩ := sequence_cases s <;> rw [hs] at h
  · cases h
    exact .host (not_executes_of_empty hl) (.same rfl)
  · cases h
    exact .of_hostMove rfl rfl (.inl hl) (not_executes_of_empty hl) hm
  · cases h
    exact .of_hostMove (takeTurn_block s) (takeTurn_inputs s) (.inr ht) (not_executes_of_hostMove ht hm) hm
  · exact .core w ⟨hl, ht⟩ (coreStep_effect (s := takeTurn s) h)

/-- A step that executes w is the core step on w. -/
theorem step_effect_of_executes {s t : State} {w : Word} (h : step s = .next t) (hx : Executes s w) :
    CoreEffect w s.block t.block := by
  cases step_effect h with
  | reset _ hn _ => exact absurd hx (hn w)
  | host hn _ => exact absurd hx (hn w)
  | core v hv hc =>
    obtain rfl : v = w := by simpa [hv.1] using hx.1
    exact hc

end Sys2Proof.Machine
end

section
/-! The invariant of 10_state.md R29 to R37 and what keeps it, effect by effect; the digest as the running sum of columns;
and the statements about single elements of the block that follow from the effects of a step. -/

namespace Sys2Proof.Machine

/-! ### Taking bytes -/

@[simp] theorem absorbByte_dig (b : Block) (v : Byte) : (absorbByte b v).dig = b.dig := (absorbByte_frame b v).1

@[simp] theorem absorbByte_phase (b : Block) (v : Byte) : (absorbByte b v).phase = b.phase := (absorbByte_frame b v).2.1

/-- SEEDED is set by the byte that finds COUNT at 3 modulo 4, and never cleared (45_commands.md R111). -/
theorem absorbByte_seeded (b : Block) (v : Byte) :
    (absorbByte b v).seeded = (b.seeded || decide (b.count.toNat % 4 = 3)) := by
  rcases absorbByte_cases b v with ⟨hs, hk, h⟩ | ⟨hs, hk, h⟩ | ⟨hs, hk, h⟩ | ⟨hs, hk, h⟩ | ⟨hs, h⟩ <;> simp_all

theorem takeBytes_concat (m : List Byte) (v : Byte) (b : Block) :
    takeBytes (m ++ [v]) b = absorbByte (takeBytes m b) v := by
  simp [takeBytes]

theorem takeBytes_count (m : List Byte) (b : Block) : (takeBytes m b).count = b.count + BitVec.ofNat 32 m.length := by
  induction m using List.reverseRecOn with
  | nil => simp [takeBytes]
  | append_singleton m v ih =>
    rw [takeBytes_concat, absorbByte_count, ih, List.length_append, BitVec.ofNat_add, BitVec.add_assoc]
    rfl

/-- After START, SEEDED says whether four bytes have been taken, however often COUNT has wrapped. -/
theorem takeBytes_startBlock_seeded (b : Block) (m : List Byte) :
    (takeBytes m (startBlock b)).seeded = decide (4 ≤ m.length) := by
  induction m using List.reverseRecOn with
  | nil => rfl
  | append_singleton m v ih =>
    rw [takeBytes_concat, absorbByte_seeded, ih, takeBytes_count]
    simp only [startBlock_count, BitVec.ofNat_eq_ofNat, BitVec.zero_add, BitVec.toNat_ofNat, List.length_append,
      List.length_cons, List.length_nil]
    rw [← Bool.decide_or, decide_eq_decide]
    omega

/-- A loop whose every iteration takes one byte adds its length to COUNT. -/
theorem forRange_count {f : Nat → Block → Block} (hf : ∀ k b, (f k b).count = b.count + 1) (lo n : Nat) (b : Block) :
    (forRange lo n f b).count = b.count + BitVec.ofNat 32 n := by
  induction n with
  | zero => simp
  | succ n ih =>
    rw [forRange_succ, hf, ih, BitVec.ofNat_add, BitVec.add_assoc]
    rfl

/-- END's pad bytes bring COUNT to the next multiple of four (45_commands.md R114). -/
theorem padBlock_count (b : Block) : (padBlock b).count = b.count + BitVec.ofNat 32 (4 - b.count.toNat % 4) :=
  forRange_count (fun _ _ => absorbByte_count _ _) _ _ _

/-- What every byte keeps, END's pad bytes keep. -/
theorem padBlock_keeps (P : Block → Prop) {b : Block} (h : P b) (hP : ∀ c v, P c → P (absorbByte c v)) :
    P (padBlock b) :=
  forRange_keeps P _ _ _ _ h fun _ c _ _ hc => hP c _ hc

theorem padBlock_seeded {b : Block} (h : b.seeded = true) : (padBlock b).seeded = true :=
  padBlock_keeps (·.seeded = true) h fun c v hc => by simp [absorbByte_seeded, hc]

/-! ### END -/

theorem fold_sequencer (b : Block) : sequencer (fold b) = sequencer b := by
  obtain ⟨v, hv⟩ := fold_frame b
  exact (congrArg sequencer hv).trans rfl

/-- What END does after its pad bytes: diffuse, finalize, fold (45_commands.md R114). -/
def digestBlock (b : Block) : Block := fold (finalize (diffuse b b.pos))

theorem endBlock_eq (b : Block) : endBlock b = setPhase (digestBlock (padBlock b)) .done := rfl

theorem digestBlock_sequencer (b : Block) : sequencer (digestBlock b) = sequencer b :=
  (fold_sequencer _).trans ((finalize_frame _).1.trans (diffuse_frame b b.pos).1)

/-- END leaves COUNT, POS, SEEDED, ERRCODE and ERRCMD as the pad bytes left them. -/
theorem endBlock_frame (b : Block) :
    (endBlock b).count = (padBlock b).count ∧ (endBlock b).pos = (padBlock b).pos ∧
      (endBlock b).seeded = (padBlock b).seeded ∧ (endBlock b).errCode = (padBlock b).errCode ∧
      (endBlock b).errCmd = (padBlock b).errCmd := by
  have h := digestBlock_sequencer (padBlock b)
  simp only [sequencer, Prod.mk.injEq] at h
  obtain ⟨hcount, hpos, hseeded, -, hcode, hcmd, -, -⟩ := h
  rw [endBlock_eq]
  exact ⟨(setPhase_count ..).trans hcount, (setPhase_pos ..).trans hpos, (setPhase_seeded ..).trans hseeded,
    (setPhase_errCode ..).trans hcode, (setPhase_errCmd ..).trans hcmd⟩

@[simp] theorem endBlock_phase (b : Block) : (endBlock b).phase = .done := rfl

/-! ### The digest END leaves (44_fold.md R105, R106) -/

theorem columnSum_congr {b c : Block} (h : b.ws = c.ws) : columnSum b = columnSum c := by
  funext k
  simp only [columnSum, wsGet_congr h]

/-- The sum of the first n columns of ws (44_fold.md R106). -/
def runningSum (b : Block) (n : Nat) : Nat := ((List.range n).map (columnSum b)).sum

theorem runningSum_congr {b c : Block} (h : b.ws = c.ws) (n : Nat) : runningSum b n = runningSum c n := by
  rw [runningSum, columnSum_congr h, runningSum]

theorem runningSum_succ (b : Block) (n : Nat) : runningSum b (n + 1) = runningSum b n + columnSum b n := by
  simp [runningSum, List.range_succ]

theorem foldByte_toNat (b : Block) (k : Nat) (fb : Byte) : (foldByte b k fb).toNat = (columnSum b k + fb.toNat) % 256 := by
  simp only [foldByte, BitVec.toNat_ofNat]
  rfl

/-- What n steps of fold from b leave: ws as in b, the feedback byte and every digest byte so far the running sum of
columns modulo 256 (44_fold.md R106). -/
structure FoldedTo (b : Block) (n : Nat) (a : Block × Byte) : Prop where
  ws : a.1.ws = b.ws
  feedback : a.2.toNat = runningSum b n % 256
  dig : ∀ i : BitVec 5, i.toNat < n → (digGet a.1 i).toNat = runningSum b (i.toNat + 1) % 256

theorem FoldedTo.succ {b : Block} {n : Nat} {a : Block × Byte} (h : FoldedTo b n a) (hn : n < 32) :
    FoldedTo b (n + 1) (foldIndex n a) := by
  have hacc : (foldByte a.1 n a.2).toNat = runningSum b (n + 1) % 256 := by
    rw [foldByte_toNat, h.feedback, columnSum_congr h.ws, runningSum_succ]
    omega
  refine ⟨h.ws, hacc, fun i hi => ?_⟩
  have hindex : (BitVec.ofNat 5 n).toNat = n := Nat.mod_eq_of_lt hn
  by_cases hin : i = BitVec.ofNat 5 n
  · subst hin
    rw [hindex]
    simpa [foldIndex] using hacc
  · have hne : i.toNat ≠ n := fun e => hin (BitVec.eq_of_toNat_eq (e.trans hindex.symm))
    rw [foldIndex, digGet_digSet_ne _ _ hin]
    exact h.dig i (by omega)

theorem foldedTo_forRange (b : Block) {n : Nat} (hn : n ≤ 32) : FoldedTo b n (forRange 0 n foldIndex (b, 0)) := by
  induction n with
  | zero => exact ⟨rfl, rfl, fun i hi => absurd hi (Nat.not_lt_zero _)⟩
  | succ n ih =>
    rw [forRange_succ, Nat.zero_add]
    exact (ih (by omega)).succ (by omega)

/-- fold writes every digest byte the running sum of the columns of ws (44_fold.md R106). -/
theorem digGet_fold (b : Block) (i : BitVec 5) : (digGet (fold b) i).toNat = runningSum b (i.toNat + 1) % 256 :=
  (foldedTo_forRange b (Nat.le_refl 32)).dig i i.isLt

theorem fold_ws (b : Block) : (fold b).ws = b.ws := (foldedTo_forRange b (Nat.le_refl 32)).ws

theorem digGet_digestBlock (b : Block) (i : BitVec 5) :
    (digGet (digestBlock b) i).toNat = runningSum (digestBlock b) (i.toNat + 1) % 256 :=
  (digGet_fold _ i).trans (by rw [digestBlock, runningSum_congr (fold_ws _)])

/-- END leaves in dig the running sum of the columns of the ws it leaves. -/
theorem digGet_endBlock (b : Block) (i : BitVec 5) :
    (digGet (endBlock b) i).toNat = runningSum (endBlock b) (i.toNat + 1) % 256 := by
  rw [endBlock_eq, digGet_congr (setPhase_dig ..), runningSum_congr (setPhase_ws ..)]
  exact digGet_digestBlock _ i

/-! ### The invariant -/

/-- The elements the invariant speaks of, but OUT. -/
def invariantView (b : Block) : BitVec 32 × WsIndex × Bool × Phase × BitVec 4 × Word × WorkingState × Digest :=
  (b.count, b.pos, b.seeded, b.phase, b.errCode, b.errCmd, b.ws, b.dig)

/-- The invariant depends on its elements alone, and on OUT only in ABSORBING before SEEDED. -/
theorem Consistent.of_view {b c : Block} (h : Consistent b) (hv : invariantView c = invariantView b)
    (hout : c.phase = .absorbing → c.out = b.out) : Consistent c := by
  simp only [invariantView, Prod.mk.injEq] at hv
  obtain ⟨hcount, hpos, hseeded, hphase, hcode, hcmd, hws, hdig⟩ := hv
  have hws := wsGet_congr hws
  have hdig := digGet_congr hdig
  constructor
  case absorbing_out => exact fun hp hs => (hout hp).trans (h.absorbing_out (hphase ▸ hp) (hseeded ▸ hs))
  all_goals simp only [wsClear, digClear, hcount, hpos, hseeded, hphase, hcode, hcmd, hws, hdig]
  · exact h.errCode_le
  · exact h.error_iff
  · exact h.errCmd_zero
  · exact h.unseeded_count
  · exact h.unseeded_pos
  · exact h.unseeded_ws
  · exact h.seeded_pos
  · exact h.absorbing_dig
  · exact h.idle_fresh
  · exact h.done_seeded

theorem consistent_reset : Consistent Block.reset := by
  constructor <;> simp [wsClear, digClear]

theorem consistent_startBlock (b : Block) : Consistent (startBlock b) := by
  constructor <;> simp [wsClear, digClear]

theorem Consistent.after_enterError {b : Block} (h : Consistent b) (e : CmdError) (w : Word) :
    Consistent (enterError e w b) := by
  constructor
  case errCode_le => cases e <;> simp [errorCode]
  case error_iff => cases e <;> simp [errorCode]
  case errCmd_zero => cases e <;> simp [errorCode]
  case unseeded_count => exact h.unseeded_count
  case unseeded_pos => exact h.unseeded_pos
  case unseeded_ws => exact h.unseeded_ws
  case seeded_pos => exact h.seeded_pos
  all_goals simp

/-- The index of the last byte folded, after COUNT went up by one, wrap of COUNT included (42_absorb.md R98). -/
theorem wsIndex_of_bumped (c : BitVec 32) : wsIndex ((c + 1).toNat + 127) = wsIndex c.toNat := by
  apply BitVec.eq_of_toNat_eq
  simp only [wsIndex, BitVec.toNat_ofNat, BitVec.toNat_add, BitVec.ofNat_eq_ofNat]
  omega

/-- What the invariant asks of a block in ABSORBING. -/
theorem consistent_of_absorbing {c : Block} (hphase : c.phase = .absorbing) (hcode : c.errCode = 0) (hcmd : c.errCmd = 0)
    (hdig : digClear c) (hunseeded : c.seeded = false → c.count.toNat < 4 ∧ c.pos = 0 ∧ wsClear c ∧ c.out = 0)
    (hseeded : c.seeded = true → c.pos = wsIndex (c.count.toNat + 127) ∨ (c.count = 4 ∧ c.pos = 0)) : Consistent c := by
  constructor
  case unseeded_count =>
    intro hs
    obtain ⟨hcount, -, -, -⟩ := hunseeded hs
    exact hcount
  case unseeded_pos =>
    intro hs
    obtain ⟨-, hpos, -, -⟩ := hunseeded hs
    exact hpos
  case unseeded_ws =>
    intro hs
    obtain ⟨-, -, hws, -⟩ := hunseeded hs
    exact hws
  case absorbing_out =>
    intro _ hs
    obtain ⟨-, -, -, hout⟩ := hunseeded hs
    exact hout
  case seeded_pos => exact hseeded
  case absorbing_dig => exact fun _ => hdig
  all_goals simp [hphase, hcode, hcmd]

/-- A byte taken in ABSORBING keeps the invariant: three bytes into the seed, the fourth, or a byte folded. -/
theorem Consistent.after_absorbByte {b : Block} (h : Consistent b) (hp : b.phase = .absorbing) (v : Byte) :
    Consistent (absorbByte b v) := by
  have hcode : b.errCode = 0 := by simpa [hp] using h.error_iff
  obtain ⟨hdig, hphase, hcode', hcmd, -, -⟩ := absorbByte_frame b v
  refine consistent_of_absorbing (hphase.trans hp) (hcode'.trans hcode) (hcmd.trans (h.errCmd_zero hcode))
    (fun i => (digGet_congr hdig i).trans (h.absorbing_dig hp i)) ?_ ?_
  · have hfirst (hs : b.seeded = false) (hk : b.count.toNat % 4 < 3) :
        (b.count + 1).toNat < 4 ∧ b.pos = 0 ∧ wsClear b ∧ b.out = 0 := by
      have hlt := h.unseeded_count hs
      refine ⟨?_, h.unseeded_pos hs, h.unseeded_ws hs, h.absorbing_out hp hs⟩
      simp only [BitVec.toNat_add, BitVec.ofNat_eq_ofNat, BitVec.toNat_ofNat]
      omega
    rcases absorbByte_cases b v with ⟨hs, hk, hc⟩ | ⟨hs, hk, hc⟩ | ⟨hs, hk, hc⟩ | ⟨-, -, hc⟩ | ⟨hs, hc⟩ <;> rw [hc]
    · exact fun _ => hfirst hs (by omega)
    · exact fun _ => hfirst hs (by omega)
    · exact fun _ => hfirst hs (by omega)
    · simp
    · simp [hs]
  · rcases absorbByte_cases b v with ⟨hs, -, hc⟩ | ⟨hs, -, hc⟩ | ⟨hs, -, hc⟩ | ⟨hs, hk, hc⟩ | ⟨-, hc⟩ <;> rw [hc]
    · simp [hs]
    · simp [hs]
    · simp [hs]
    · have hlt := h.unseeded_count hs
      have h3 : b.count = 3 := BitVec.eq_of_toNat_eq (show b.count.toNat = 3 by omega)
      exact fun _ => .inr ⟨by simp [h3], h.unseeded_pos hs⟩
    · exact fun _ => .inl (wsIndex_of_bumped b.count).symm

theorem Consistent.after_padBlock {b : Block} (h : Consistent b) (hp : b.phase = .absorbing) :
    Consistent (padBlock b) ∧ (padBlock b).phase = .absorbing :=
  padBlock_keeps (fun c => Consistent c ∧ c.phase = .absorbing) ⟨h, hp⟩ fun c v ⟨hc, hcp⟩ =>
    ⟨hc.after_absorbByte hcp v, by simp [hcp]⟩

/-- After END's pad bytes at least four bytes have been taken (45_commands.md R114). -/
theorem Consistent.after_padBlock_seeded {b : Block} (h : Consistent b) (hp : b.phase = .absorbing) :
    (padBlock b).seeded = true := by
  cases hs : b.seeded with
  | true => exact padBlock_seeded hs
  | false =>
    by_contra hn
    have hc := (h.after_padBlock hp).1.unseeded_count (by simpa using hn)
    have hb := h.unseeded_count hs
    rw [padBlock_count, BitVec.toNat_add, BitVec.toNat_ofNat] at hc
    omega

theorem Consistent.after_endBlock {b : Block} (h : Consistent b) (hp : b.phase = .absorbing) :
    Consistent (endBlock b) := by
  have hpad := (h.after_padBlock hp).1
  have hseeded := h.after_padBlock_seeded hp
  have hcode : (padBlock b).errCode = 0 := by
    simpa [(h.after_padBlock hp).2] using hpad.error_iff
  obtain ⟨hcount, hpos, hs, hec, hem⟩ := endBlock_frame b
  rw [hseeded] at hs
  rw [hcode] at hec
  constructor
  case seeded_pos => exact fun _ => by rw [hpos, hcount]; exact hpad.seeded_pos hseeded
  case errCmd_zero => exact fun _ => by rw [hem]; exact hpad.errCmd_zero hcode
  all_goals simp [hs, hec]

/-- Every command keeps the invariant where it is legal. -/
theorem Consistent.after_commandEffect {b : Block} (h : Consistent b) {i : Instr} (hi : legality i b.phase = .ok) :
    Consistent (commandEffect i b) := by
  cases i with
  | start => exact consistent_startBlock b
  | byte d => exact h.after_absorbByte (phase_of_legality_byte hi) d
  | endMessage => exact h.after_endBlock (phase_of_legality_endMessage hi)
  | seed => exact h.of_view rfl fun _ => rfl
  | next d => exact h.of_view rfl fun hp => absurd hi (by simp [show b.phase = .absorbing from hp, legality])

theorem Consistent.after_emptyLatch {b : Block} (h : Consistent b) : Consistent (emptyLatch b) := h.of_view rfl fun _ => rfl

theorem Consistent.after_coreEffect {w : Word} {b c : Block} (h : Consistent b) (hc : CoreEffect w b c) : Consistent c := by
  cases hc with
  | discarded _ _ hc => exact hc ▸ h.after_emptyLatch
  | undecodable e _ _ hc => exact hc ▸ h.after_emptyLatch.after_enterError e w
  | outOfSequence i _ _ hc => exact hc ▸ h.after_emptyLatch.after_enterError _ w
  | runs i _ hi hc => exact hc ▸ h.after_emptyLatch.after_commandEffect hi

theorem Consistent.after_hostEffect {b c : Block} (h : Consistent b) (hc : HostEffect b c) : Consistent c := by
  cases hc with
  | same hc => exact hc ▸ h
  | latched v _ hc => exact hc ▸ h.of_view rfl fun _ => rfl
  | argWritten v _ hc => exact hc ▸ h.of_view rfl fun _ => rfl

/-- Settles O36, by the agent that moves and then by the effect. -/
theorem stepKeepsConsistency : Obligations.StepKeepsConsistency := by
  intro s t h hstep
  cases step_effect hstep with
  | reset _ _ ht => exact ht ▸ consistent_reset
  | host _ hc => exact h.after_hostEffect hc
  | core w _ hc => exact h.after_coreEffect hc

/-! ### SEEDED (10_state.md R33) -/

/-- A core step clears SEEDED only where it executes START. -/
theorem CoreEffect.seeded_kept {w : Word} {b c : Block} (h : CoreEffect w b c) (hw : w ≠ startWord)
    (hs : b.seeded = true) : c.seeded = true := by
  cases h with
  | discarded _ _ hc => exact hc ▸ hs
  | undecodable _ _ _ hc => exact hc ▸ hs
  | outOfSequence _ _ _ hc => exact hc ▸ hs
  | runs i hd _ hc =>
    subst hc
    cases i with
    | start => exact absurd (eq_startWord_of_decode hd) hw
    | byte d => simp [commandEffect, absorbByte_seeded, hs]
    | endMessage =>
      obtain ⟨-, -, hseeded, -, -⟩ := endBlock_frame (emptyLatch b)
      exact hseeded.trans (padBlock_seeded hs)
    | seed => exact hs
    | next d => exact hs

/-- Settles O13: the bytes after START one by one, what keeps SEEDED, and COUNT from the invariant. -/
theorem seededFromTheFourthByte : Obligations.SeededFromTheFourthByte := by
  refine ⟨fun b m => ⟨takeBytes_startBlock_seeded b m, fun hm => ?_⟩, fun s t hstep hs hstart hreset => ?_,
    fun s t h hstep hs => ?_, rfl⟩
  · simp only [takeBytes_count, startBlock_count, BitVec.ofNat_eq_ofNat, BitVec.zero_add, BitVec.toNat_ofNat]
    omega
  · cases step_effect hstep with
    | reset hr _ _ => exact absurd hr hreset
    | host _ hc => exact (congrArg Block.seeded hc.frame).trans hs
    | core w hx hc => exact hc.seeded_kept (by rintro rfl; exact hstart hx) hs
  · exact Nat.le_of_lt_succ ((stepKeepsConsistency s t h hstep).unseeded_count hs)

/-! ### PHASE, and the host's moves (10_state.md R26, R35) -/

/-- No core step enters IDLE. -/
theorem CoreEffect.phase_ne_idle {w : Word} {b c : Block} (h : CoreEffect w b c) (hp : b.phase ≠ .idle) :
    c.phase ≠ .idle := by
  cases h with
  | discarded _ _ hc => exact hc ▸ hp
  | undecodable _ _ _ hc => simp [hc]
  | outOfSequence _ _ _ hc => simp [hc]
  | runs i _ _ hc =>
    subst hc
    cases i with
    | start => simp [commandEffect]
    | byte d => simpa [commandEffect] using hp
    | endMessage => simp [commandEffect]
    | seed => exact hp
    | next d => exact hp

/-- Settles O39. -/
theorem idleOnlyByReset : Obligations.IdleOnlyByReset := by
  intro s t hstep hs ht
  cases step_effect hstep with
  | reset hr _ h => exact ⟨hr, h⟩
  | host _ hc => exact absurd ((congrArg Block.phase hc.frame).symm.trans ht) hs
  | core w _ hc => exact absurd ht (hc.phase_ne_idle hs)

/-- Settles O42. -/
theorem hostWritesOnlyArgAndLatch : Obligations.HostWritesOnlyArgAndLatch := by
  intro s t hstep hreset hx
  cases step_effect hstep with
  | reset hr _ _ => exact absurd hr hreset
  | host _ hc => exact hc.frame
  | core w hw _ => exact absurd hw (hx w)

/-! ### The digest (10_state.md R31, 44_fold.md R105, R106) -/

/-- A core step writes dig only where it executes START, or END in ABSORBING. -/
theorem CoreEffect.dig_kept {w : Word} {b c : Block} (h : CoreEffect w b c) (hw : w ≠ startWord)
    (hend : ¬ (w = 0x00000003 ∧ b.phase = .absorbing)) : c.dig = b.dig := by
  cases h with
  | discarded _ _ hc => exact hc ▸ rfl
  | undecodable _ _ _ hc => exact hc ▸ rfl
  | outOfSequence _ _ _ hc => exact hc ▸ rfl
  | runs i hd hi hc =>
    subst hc
    cases i with
    | start => exact absurd (eq_startWord_of_decode hd) hw
    | byte d => simp [commandEffect]
    | endMessage => exact absurd ⟨(encode_of_decode hd).symm, phase_of_legality_endMessage hi⟩ hend
    | seed => rfl
    | next d => rfl

/-- Settles O41: the agent that moves, and END's fold. -/
theorem digestWrittenOnlyByStartEndReset : Obligations.DigestWrittenOnlyByStartEndReset := by
  refine ⟨fun s t hstep hreset hstart hend => ?_, fun s t hstep hx i => ?_, fun s t hstep hx hp i => ?_, fun i => ?_⟩
  · cases step_effect hstep with
    | reset hr _ _ => exact absurd hr hreset
    | host _ hc => exact (congrArg Block.dig hc.frame).trans rfl
    | core w hx hc => exact hc.dig_kept (by rintro rfl; exact hstart hx) fun ⟨hw, hp⟩ => hend ⟨hw ▸ hx, hp⟩
  · have h := (step_effect_of_executes hstep hx).eq_commandEffect decode_startWord (legality_start _)
    rw [h]
    exact digGet_startBlock _ i
  · have h := (step_effect_of_executes hstep hx).eq_commandEffect (i := .endMessage) (by decide) (by rw [hp]; rfl)
    rw [h]
    exact digGet_endBlock _ i
  · exact digGet_reset i

end Sys2Proof.Machine
end

section
/-! The words of the status flags bit by bit, the register map both ways, and the windows of a platform. -/

namespace Sys2Proof.Machine

/-! ### STATUS and SEQ (10_state.md R43, R48) -/

/-- STATUS bit by bit: PHASE, BUSY, ERRCODE, and zeros. -/
theorem getLsbD_statusWord (b : Block) (i : Nat) :
    (statusWord b).getLsbD i =
      if i < 3 then (phaseCode b.phase).getLsbD i
      else if i = 4 then busy b
      else if 8 ≤ i ∧ i < 12 then b.errCode.getLsbD (i - 8)
      else false := by
  change ((0 : BitVec 20) ++ b.errCode ++ (0 : BitVec 3) ++ BitVec.ofBool (busy b) ++ (0 : BitVec 1)
    ++ (phaseCode b.phase).setWidth 3).getLsbD i = _
  simp only [BitVec.getLsbD_append, BitVec.getLsbD_setWidth, BitVec.getLsbD_ofBool, BitVec.ofNat_eq_ofNat,
    BitVec.getLsbD_zero]
  grind

/-- SEQ bit by bit: POS, SEEDED, and zeros. -/
theorem getLsbD_seqWord (b : Block) (i : Nat) :
    (seqWord b).getLsbD i = if i < 7 then b.pos.getLsbD i else if i = 8 then b.seeded else false := by
  change ((0 : BitVec 23) ++ BitVec.ofBool b.seeded ++ (0 : BitVec 1) ++ b.pos).getLsbD i = _
  simp only [BitVec.getLsbD_append, BitVec.getLsbD_ofBool, BitVec.ofNat_eq_ofNat, BitVec.getLsbD_zero]
  grind

/-- A field of a register word is what its bits are. -/
theorem extractLsb'_eq_of_getLsbD {lo n : Nat} {v : Word} {f : BitVec n}
    (h : ∀ i, i < n → v.getLsbD (lo + i) = f.getLsbD i) : v.extractLsb' lo n = f := by
  refine BitVec.eq_of_getLsbD_eq fun i hi => ?_
  simp [hi, h i hi]

theorem statusWord_phaseField (b : Block) : (statusWord b).extractLsb' 0 3 = (phaseCode b.phase).setWidth 3 :=
  extractLsb'_eq_of_getLsbD fun i hi => by simp [getLsbD_statusWord, hi]

theorem statusWord_errCodeField (b : Block) : (statusWord b).extractLsb' 8 4 = b.errCode :=
  extractLsb'_eq_of_getLsbD fun i hi => by
    rw [getLsbD_statusWord, if_neg (by omega), if_neg (by omega), if_pos (by omega), Nat.add_sub_cancel_left]

/-- The bits of STATUS beside its three fields are 0. -/
theorem getLsbD_statusWord_reserved (b : Block) {i : Nat} (h : i = 3 ∨ 5 ≤ i ∧ i < 8 ∨ 12 ≤ i) :
    (statusWord b).getLsbD i = false := by
  rw [getLsbD_statusWord, if_neg (by omega), if_neg (by omega), if_neg (by omega)]

theorem seqWord_posField (b : Block) : (seqWord b).extractLsb' 0 7 = b.pos :=
  extractLsb'_eq_of_getLsbD fun i hi => by simp [getLsbD_seqWord, hi]

/-- The bits of SEQ beside its two fields are 0. -/
theorem getLsbD_seqWord_reserved (b : Block) {i : Nat} (h : i = 7 ∨ 9 ≤ i) : (seqWord b).getLsbD i = false := by
  rw [getLsbD_seqWord, if_neg (by omega), if_neg (by omega)]

/-- Settles O50, field by field. -/
theorem statusAndSeqFields : Obligations.StatusAndSeqFields := by
  intro b
  simp only [readReg]
  refine ⟨?_, ?_, ?_, ?_, ?_, ?_, ?_, ?_, ?_, ?_⟩
  · rw [statusWord_phaseField]
    exact BitVec.toNat_setWidth_of_le (by omega)
  · exact getLsbD_statusWord_reserved b (by omega)
  · rw [getLsbD_statusWord]
    rfl
  · exact extractLsb'_eq_of_getLsbD fun i hi => by simp [getLsbD_statusWord_reserved b (i := 5 + i) (by omega)]
  · exact statusWord_errCodeField b
  · exact extractLsb'_eq_of_getLsbD fun i hi => by simp [getLsbD_statusWord_reserved b (i := 12 + i) (by omega)]
  · exact seqWord_posField b
  · exact getLsbD_seqWord_reserved b (by omega)
  · rw [getLsbD_seqWord]
    rfl
  · exact extractLsb'_eq_of_getLsbD fun i hi => by simp [getLsbD_seqWord_reserved b (i := 9 + i) (by omega)]

/-! ### The register map (10_state.md R40) -/

theorem regOffset_ws_toNat (k : BitVec 5) : (regOffset (.ws k)).toNat = 0x100 + 4 * k.toNat := by
  simp only [regOffset, BitVec.toNat_ofNat]
  omega

theorem regOffset_digest_toNat (k : BitVec 3) : (regOffset (.digest k)).toNat = 0x200 + 4 * k.toNat := by
  simp only [regOffset, BitVec.toNat_ofNat]
  omega

/-- Each register is found at its offset: the tests of `regAt` that stand before its own fail there. -/
theorem regAt_regOffset (r : Reg) : regAt (regOffset r) = some r := by
  cases r
  case ws k =>
    have hk : (0x100 + 4 * k.toNat - 0x100) / 4 = k.toNat := by omega
    simp only [regAt, regOffset_ws_toNat]
    iterate 9 rw [if_neg (by omega)]
    rw [if_pos (by omega), hk, BitVec.ofNat_toNat, BitVec.setWidth_eq]
  case digest k =>
    have hk : (0x200 + 4 * k.toNat - 0x200) / 4 = k.toNat := by omega
    simp only [regAt, regOffset_digest_toNat]
    iterate 10 rw [if_neg (by omega)]
    rw [if_pos (by omega), hk, BitVec.ofNat_toNat, BitVec.setWidth_eq]
  all_goals rfl

/-- One test of a chain of tests that each give a value: it gave the result, or a later one did. -/
theorem ite_some_eq_some {α : Type} {p : Prop} [Decidable p] {x r : α} {o : Option α}
    (h : (if p then some x else o) = some r) : (p ∧ x = r) ∨ o = some r := by
  split_ifs at h with hp
  · exact .inl ⟨hp, Option.some.inj h⟩
  · exact .inr h

/-- An offset at which `regAt` finds a register is that register's offset, test by test of `regAt`. -/
theorem regOffset_of_regAt {off : Offset} {r : Reg} (h : regAt off = some r) : regOffset r = off := by
  refine BitVec.eq_of_toNat_eq ?_
  unfold regAt at h
  extract_lets n at h
  by_cases h4 : n % 4 ≠ 0
  · rw [if_pos h4] at h
    contradiction
  rw [if_neg h4] at h
  iterate 10
    obtain ⟨hn, rfl⟩ | h := ite_some_eq_some h
    · simp only [regOffset, BitVec.ofNat_eq_ofNat, BitVec.toNat_ofNat]
      omega
  contradiction

/-- Settles O43: both readings of the map, and its offsets. -/
theorem registerMapIsOneToOne : Obligations.RegisterMapIsOneToOne :=
  ⟨regAt_regOffset, fun _ _ => regOffset_of_regAt, regOffset_ws_toNat, regOffset_digest_toNat,
    rfl, rfl, rfl, rfl, rfl, rfl, rfl, rfl⟩

/-! ### Addresses of a platform (20_memory.md R64, 60_exceptions.md R135) -/

/-- Two windows of a well-formed platform that share an address are one (20_memory.md R64, 60_exceptions.md R135). -/
theorem inWindow_iff_base_eq {p : Platform} {i : Instance} (hp : platformWf p = true) (hi : i ∈ p.instances)
    (off : Offset) : ∀ j ∈ p.instances, inWindow (i.base + off.toNat) j = true ↔ j.base = i.base := by
  intro j hj
  simp only [platformWf, Bool.and_eq_true, List.all_eq_true, beq_iff_eq] at hp
  obtain ⟨⟨-, halign⟩, -⟩ := hp
  have hi4 : i.base % 4096 = 0 := halign i hi
  have hj4 : j.base % 4096 = 0 := halign j hj
  have hoff : off.toNat < 4096 := off.isLt
  simp only [inWindow, Config.windowBytes, decide_eq_true_eq]
  omega

theorem platformWf_nodup {p : Platform} (hp : platformWf p = true) : (p.instances.map (·.base)).Nodup := by
  simp only [platformWf, Bool.and_eq_true, decide_eq_true_eq] at hp
  exact hp.2

/-- An address of a window is found at the index of that window's block. -/
theorem findIdx?_inWindow {p : Platform} {k : Nat} {i : Instance} (hp : platformWf p = true)
    (hk : p.instances[k]? = some i) (off : Offset) :
    p.instances.findIdx? (inWindow (i.base + off.toNat)) = some k := by
  obtain ⟨hlt, rfl⟩ := List.getElem?_eq_some_iff.mp hk
  have hin := inWindow_iff_base_eq hp (List.getElem_mem hlt) off
  refine List.findIdx?_eq_some_iff_getElem.mpr ⟨hlt, (hin _ (List.getElem_mem hlt)).mpr rfl, fun j hj hwin => ?_⟩
  have hbase := (hin _ (List.getElem_mem (hj.trans hlt))).mp hwin
  have hjk : j = k := (platformWf_nodup hp).getElem_inj_iff (hi := by simpa using hj.trans hlt) (hj := by simpa using hlt)
    |>.mp (by simpa using hbase)
  exact hj.ne hjk

/-- Settles O60: the only window that holds the address is the one at that BASE; an address in no window finds none. -/
theorem addressReachesItsInstance : Obligations.AddressReachesItsInstance := by
  refine ⟨fun p k i off mk hp hk => ?_, fun p addr mk hout => ?_⟩
  · simp [platformAccess, findIdx?_inWindow hp hk, List.modify_eq_set_getElem?, hk]
  · have hnone : p.instances.findIdx? (inWindow addr) = none :=
      List.findIdx?_eq_none_iff.mpr fun i hi => by
        simp only [inWindow, Config.windowBytes, decide_eq_false_iff_not]
        have := hout i hi
        omega
    simp [platformAccess, hnone]

end Sys2Proof.Machine
end

section
/-! The accesses of the register window, one rule for each kind; what an access does to a step; and the block that a run
ends with, as a function of the block and the inputs alone. -/

namespace Sys2Proof.Machine

/-! ### Register words (20_memory.md R58) -/

/-- Byte j of a register word is the j-th byte packed into it. -/
theorem packBytes_byte (f : Nat → Byte) {j : Nat} (hj : j < 4) :
    (packBytes (f 0) (f 1) (f 2) (f 3)).extractLsb' (8 * j) 8 = f j := by
  refine extractLsb'_eq_of_getLsbD fun i hi => ?_
  change (f 3 ++ f 2 ++ f 1 ++ f 0).getLsbD (8 * j + i) = _
  simp only [BitVec.getLsbD_append]
  obtain rfl | rfl | rfl | rfl : j = 0 ∨ j = 1 ∨ j = 2 ∨ j = 3 := by omega
  all_goals grind

/-- Settles O51: every window register packs four bytes, the others are read whole. -/
theorem windowsReadBytesLittleEndian : Obligations.WindowsReadBytesLittleEndian := by
  intro b
  have prng : ∀ j, j < 4 → (readReg b .prng).extractLsb' (8 * j) 8 = [b.x, b.y, b.z, b.w].getD j 0 :=
    fun _ hj => packBytes_byte (fun j => [b.x, b.y, b.z, b.w].getD j 0) hj
  refine ⟨fun k _ hj => packBytes_byte (fun j => wsGet b (wsIndex (4 * k.toNat + j))) hj,
    fun k _ hj => packBytes_byte (fun j => digGet b (BitVec.ofNat 5 (4 * k.toNat + j))) hj,
    prng 0 (by decide), prng 1 (by decide), prng 2 (by decide), prng 3 (by decide), ?_, rfl, rfl, rfl, rfl⟩
  exact BitVec.toNat_setWidth_of_le (by decide)

/-! ### Bus accesses (20_memory.md R56 to R62) -/

theorem regOffset_injective : Function.Injective regOffset := fun r r' h => by
  simpa [regAt_regOffset] using congrArg regAt h

theorem regOffset_aligned (r : Reg) : (regOffset r).toNat % 4 = 0 := by
  cases r
  case ws k => rw [regOffset_ws_toNat]; omega
  case digest k => rw [regOffset_digest_toNat]; omega
  all_goals rfl

/-- CMD and ARG, by their offsets (10_state.md R40). -/
theorem regWritable_iff (r : Reg) : regWritable r = true ↔ regOffset r = 0x000 ∨ regOffset r = 0x004 := by
  have hoff : (regOffset r = regOffset .cmd ∨ regOffset r = regOffset .arg) ↔ (r = .cmd ∨ r = .arg) := by
    simp only [regOffset_injective.eq_iff]
  refine Iff.trans ?_ hoff.symm
  cases r <;> simp [regWritable]

theorem regAt_eq_none_iff (off : Offset) : regAt off = none ↔ ∀ r, regOffset r ≠ off := by
  constructor
  · rintro h r rfl
    simp [regAt_regOffset] at h
  · intro h
    cases hr : regAt off with
    | none => rfl
    | some r => exact absurd (regOffset_of_regAt hr) (h r)

/-- The conditions (a) to (d) of R57, in terms of the offsets of the registers. -/
theorem isBusError_iff (a : Access) :
    isBusError a = true ↔ accessWidth a ≠ 4 ∨ (accessOffset a).toNat % 4 ≠ 0 ∨ (∀ r, regOffset r ≠ accessOffset a) ∨
      (accessWrites a = true ∧ accessOffset a ≠ 0x000 ∧ accessOffset a ≠ 0x004) := by
  rw [← regAt_eq_none_iff]
  cases hr : regAt (accessOffset a) with
  | none => simp [isBusError, hr]
  | some r =>
    have hw : regWritable r = false ↔ accessOffset a ≠ 0x000 ∧ accessOffset a ≠ 0x004 := by
      rw [← regOffset_of_regAt hr, ← not_or, ← regWritable_iff, Bool.not_eq_true]
    simp [isBusError, hr, hw, or_assoc, Config.hostBytes]

theorem busAccess_of_isBusError {a : Access} (h : isBusError a = true) (b : Block) :
    busAccess b a = some (b, .busError (accessOffset a)) := by
  simp [busAccess, h]

/-- An access without a bus error is a read of a register, or a write to CMD or ARG. -/
theorem access_cases (a : Access) :
    isBusError a = true ∨ (∃ r, a = .read 4 (regOffset r)) ∨ (∃ v, a = .write 4 0x000 v) ∨ ∃ v, a = .write 4 0x004 v := by
  by_cases h : isBusError a = true
  · exact .inl h
  right
  simp only [isBusError_iff, not_or, not_and, not_forall, not_not] at h
  obtain ⟨hn, -, ⟨r, hr⟩, hw⟩ := h
  cases a with
  | read n off =>
    obtain rfl : n = 4 := hn
    exact .inl ⟨r, congrArg (Access.read 4) hr.symm⟩
  | write n off v =>
    obtain rfl : n = 4 := hn
    by_cases h0 : off = 0x000
    · exact .inr (.inl ⟨v, by rw [h0]⟩)
    · obtain rfl : off = 0x004 := hw rfl h0
      exact .inr (.inr ⟨v, rfl⟩)

theorem isBusError_read (r : Reg) : isBusError (.read 4 (regOffset r)) = false := by
  simp [isBusError, accessWidth, accessOffset, accessWrites, regOffset_aligned, regAt_regOffset]

theorem isBusError_write (r : Reg) (v : Word) : isBusError (.write 4 (regOffset r) v) = !regWritable r := by
  simp [isBusError, accessWidth, accessOffset, accessWrites, regOffset_aligned, regAt_regOffset]

/-- A read of a register: STATUS at once, the others only while LATCH is empty (R62). -/
theorem busAccess_read (b : Block) (r : Reg) :
    busAccess b (.read 4 (regOffset r)) =
      if busy b = true ∧ r ≠ .status then none else some (b, .data (readReg b r)) := by
  have hr : regAt (accessOffset (.read 4 (regOffset r))) = some r := regAt_regOffset r
  cases r <;> simp [busAccess, isBusError_read, hr, readReg]

/-- A write to CMD latches its word, or stalls while LATCH is full (R60). -/
theorem busAccess_write_cmd (b : Block) (v : Word) :
    busAccess b (.write 4 0x000 v) = if busy b then none else some (fillLatch b v, .written) := by
  change busAccess b (.write 4 (regOffset .cmd) v) = _
  have hr : regAt (accessOffset (.write 4 (regOffset .cmd) v)) = some .cmd := regAt_regOffset .cmd
  simp [busAccess, isBusError_write, hr, regWritable]

/-- A write to ARG completes, or stalls while LATCH is full (R61). -/
theorem busAccess_write_arg (b : Block) (v : Word) :
    busAccess b (.write 4 0x004 v) = if busy b then none else some (setArg b v, .written) := by
  change busAccess b (.write 4 (regOffset .arg) v) = _
  have hr : regAt (accessOffset (.write 4 (regOffset .arg) v)) = some .arg := regAt_regOffset .arg
  simp [busAccess, isBusError_write, hr, regWritable]

theorem busy_of_empty {b : Block} (h : b.latch = none) : busy b = false := by simp [busy, h]

theorem busy_of_full {b : Block} (h : b.latch ≠ none) : busy b = true := Option.isSome_iff_ne_none.mpr h

/-- Settles O45, by the rule of a write to CMD. -/
theorem cmdWriteLatchesOrStalls : Obligations.CmdWriteLatchesOrStalls := by
  intro b v
  rw [busAccess_write_cmd]
  exact ⟨fun h => if_neg (by simp [busy_of_empty h]), fun h => if_pos (busy_of_full h)⟩

/-- No read that completes changes the block (R62). -/
theorem busAccess_read_block {b c : Block} {n : Nat} {off : Offset} {v : Response}
    (h : busAccess b (.read n off) = some (c, v)) : c = b := by
  obtain he | ⟨r, hr⟩ | ⟨_, hw⟩ | ⟨_, hw⟩ := access_cases (.read n off)
  · simp_all [busAccess_of_isBusError he]
  · rw [hr, busAccess_read] at h
    split_ifs at h
    simp_all
  · cases hw
  · cases hw

/-- Settles O47, by the rule of a read. -/
theorem readsStallWhileBusyButStatus : Obligations.ReadsStallWhileBusyButStatus := by
  intro b r
  refine ⟨(busAccess_read b .status).trans (if_neg (by simp)), fun hr hl => ?_, fun hl => ?_,
    fun _ _ _ _ => busAccess_read_block⟩
  · rw [busAccess_read, if_pos ⟨busy_of_full hl, hr⟩]
  · rw [busAccess_read, if_neg (by simp [busy_of_empty hl])]

/-- An access is answered with a bus error only where it is one. -/
theorem isBusError_of_busAccess {b : Block} {a : Access} {off : Offset} (h : busAccess b a = some (b, .busError off)) :
    isBusError a = true := by
  obtain he | ⟨r, rfl⟩ | ⟨v, rfl⟩ | ⟨v, rfl⟩ := access_cases a
  · exact he
  · simp [busAccess_read] at h
  · rw [busAccess_write_cmd] at h
    split_ifs at h
    simp at h
  · rw [busAccess_write_arg] at h
    split_ifs at h
    simp at h

/-! ### An access in a step (20_memory.md R63, 70_reset_and_hazards.md R141) -/

theorem hostMove_of_busAccess {s : State} {a : Access} {rest : List Input} {b : Block} {r : Response}
    (hi : s.inputs = .access a :: rest) (hb : busAccess s.block a = some (b, r)) :
    hostMove s = some { s with block := b, inputs := rest, responses := s.responses ++ [r] } := by
  simp [hostMove, hi, hb]

/-- Settles O49, by whether a turn is taken. -/
theorem accessTakesPlace : Obligations.AccessTakesPlace := by
  intro s a rest b r hi hmay hb
  cases hl : s.block.latch with
  | none => simp [step, sequence, hl, hostMove_of_busAccess hi hb, turnsAfter]
  | some w =>
    have ht : turnOf s = .host := hmay.resolve_left (by simp [hl])
    have hm := hostMove_of_busAccess (s := takeTurn s) hi hb
    simp [step, sequence, hl, ht, hm, turnsAfter]

/-- Settles O44: the conditions of R57, and the step of an access that meets one. -/
theorem busErrorConditions : Obligations.BusErrorConditions := by
  intro a off bad
  have hbad : isBusError a = true ↔ bad := isBusError_iff a
  refine ⟨fun b => ⟨fun h => hbad.mp (isBusError_of_busAccess h), fun h => busAccess_of_isBusError (hbad.mpr h) b⟩,
    fun s rest h hi hmay => ?_⟩
  exact accessTakesPlace s a rest s.block (.busError off) hi hmay (busAccess_of_isBusError (hbad.mpr h) s.block)

/-! ### ARG and LATCH under a core step (20_memory.md R61, 45_commands.md R110) -/

theorem endBlock_arg_latch (b : Block) : (endBlock b).arg = b.arg ∧ (endBlock b).latch = b.latch := by
  have hpad : (padBlock b).arg = b.arg ∧ (padBlock b).latch = b.latch :=
    padBlock_keeps (fun c => c.arg = b.arg ∧ c.latch = b.latch) ⟨rfl, rfl⟩ fun c v h => by
      obtain ⟨-, -, -, -, harg, hlatch⟩ := absorbByte_frame c v
      exact ⟨harg.trans h.1, hlatch.trans h.2⟩
  have h := digestBlock_sequencer (padBlock b)
  simp only [sequencer, Prod.mk.injEq] at h
  obtain ⟨-, -, -, -, -, -, harg, hlatch⟩ := h
  rw [endBlock_eq]
  exact ⟨(setPhase_arg ..).trans (harg.trans hpad.1), (setPhase_latch ..).trans (hlatch.trans hpad.2)⟩

/-- No command writes ARG or LATCH. -/
theorem commandEffect_arg_latch (i : Instr) (b : Block) :
    (commandEffect i b).arg = b.arg ∧ (commandEffect i b).latch = b.latch := by
  cases i with
  | start => exact ⟨rfl, rfl⟩
  | byte d =>
    obtain ⟨-, -, -, -, harg, hlatch⟩ := absorbByte_frame b d
    exact ⟨harg, hlatch⟩
  | endMessage => exact endBlock_arg_latch b
  | seed => exact ⟨rfl, rfl⟩
  | next d => exact ⟨rfl, rfl⟩

/-- Every core step keeps ARG and leaves LATCH empty. -/
theorem CoreEffect.arg_latch {w : Word} {b c : Block} (h : CoreEffect w b c) : c.arg = b.arg ∧ c.latch = none := by
  cases h with
  | discarded _ _ hc => exact hc ▸ ⟨rfl, rfl⟩
  | undecodable _ _ _ hc => exact hc ▸ ⟨rfl, rfl⟩
  | outOfSequence _ _ _ hc => exact hc ▸ ⟨rfl, rfl⟩
  | runs i _ _ hc => exact hc ▸ commandEffect_arg_latch i (emptyLatch b)

/-- While LATCH is full the host changes nothing (R60, R61). -/
theorem HostEffect.eq_of_full {b c : Block} (h : HostEffect b c) (hl : b.latch ≠ none) : c = b := by
  cases h with
  | same h => exact h
  | latched _ he _ => exact absurd he hl
  | argWritten _ he _ => exact absurd he hl

/-- Settles O46: the write itself, and then ARG by the agent that moves. -/
theorem argKeptWhileCommandPending : Obligations.ArgKeptWhileCommandPending := by
  refine ⟨fun b v => ?_, fun s t hl hreset hstep => ?_⟩
  · rw [busAccess_write_arg]
    exact ⟨fun h => if_neg (by simp [busy_of_empty h]), fun h => if_pos (busy_of_full h)⟩
  · cases step_effect hstep with
    | reset hr _ _ => exact absurd hr hreset
    | host _ hc => rw [hc.eq_of_full hl]
    | core w _ hc => exact hc.arg_latch.1

/-! ### The block at rest, whatever the interleaving (20_memory.md R66, 70_reset_and_hazards.md R143)

A pending command can run now or later with the same result: what gets past it (a STATUS read, a bus error, a WAIT poll)
changes no block, and the reset input forgets it. So the block at rest is the one of the run in which the core always
moves first, which depends on the block and the inputs alone. -/

/-- The block after the core step on the latched word w (45_commands.md R110). -/
def coreBlock (w : Word) (b : Block) : Block :=
  if b.phase = .error ∧ w ≠ startWord then emptyLatch b
  else
    match decode w with
    | .error e => enterError e w (emptyLatch b)
    | .ok i =>
      match legality i b.phase with
      | .ok => commandEffect i (emptyLatch b)
      | .illegal => enterError .illegalSequence (encode i) (emptyLatch b)
      | .discarded => emptyLatch b

/-- A core step always answers a next state, and changes the block alone. -/
theorem coreStep_eq (w : Word) (s : State) : coreStep w s = .next (s.mapBlock (coreBlock w)) := by
  by_cases h : s.block.phase = .error ∧ w ≠ startWord
  · simp [coreStep, coreBlock, State.mapBlock, h]
  · cases hd : decode w with
    | error e => simp [coreStep, coreBlock, State.mapBlock, h, hd]
    | ok i =>
      cases hi : legality i s.block.phase <;>
        simp [coreStep, coreBlock, State.mapBlock, h, hd, exec_eq_perform, perform, hi]

theorem coreBlock_latch (w : Word) (b : Block) : (coreBlock w b).latch = none :=
  (coreStep_effect (coreStep_eq w { State.reset with block := b })).arg_latch.2

/-- The block once its pending command, if there is one, has run. -/
def drained (b : Block) : Block :=
  match b.latch with
  | none => b
  | some w => coreBlock w b

theorem drained_of_empty {b : Block} (h : b.latch = none) : drained b = b := by simp [drained, h]

theorem drained_of_latch {b : Block} {w : Word} (h : b.latch = some w) : drained b = coreBlock w b := by simp [drained, h]

theorem drained_latch (b : Block) : (drained b).latch = none := by
  cases h : b.latch with
  | none => rwa [drained_of_empty h]
  | some w => rw [drained_of_latch h, coreBlock_latch]

@[simp] theorem drained_drained (b : Block) : drained (drained b) = drained b := drained_of_empty (drained_latch b)

/-- What an input does to a block on which it takes place; nothing where it stalls. -/
def inputEffect (i : Input) (b : Block) : Block :=
  match i with
  | .access a => ((busAccess b a).map Prod.fst).getD b
  | .wait => b
  | .reset => Block.reset

theorem inputEffect_access {a : Access} {b c : Block} {r : Response} (h : busAccess b a = some (c, r)) :
    inputEffect (.access a) b = c := by simp [inputEffect, h]

/-- The block after these inputs, every command run before the next input. -/
def restBlock (is : List Input) (b : Block) : Block :=
  match is with
  | [] => drained b
  | i :: rest => restBlock rest (inputEffect i (drained b))

/-- The pending command may as well have run already. -/
@[simp] theorem restBlock_drained (is : List Input) (b : Block) : restBlock is (drained b) = restBlock is b := by
  cases is <;> simp [restBlock]

/-- An access that gets past a pending command changes no block, whenever it takes place (20_memory.md R57, R62). -/
theorem inputEffect_of_busAccess_full {a : Access} {b c : Block} {r : Response} (h : busAccess b a = some (c, r))
    (hl : b.latch ≠ none) (d : Block) : inputEffect (.access a) d = d := by
  obtain he | ⟨q, rfl⟩ | ⟨v, rfl⟩ | ⟨v, rfl⟩ := access_cases a
  · exact inputEffect_access (busAccess_of_isBusError he d)
  · rw [inputEffect, busAccess_read]
    split_ifs <;> rfl
  · rw [busAccess_write_cmd, if_pos (busy_of_full hl)] at h
    cases h
  · rw [busAccess_write_arg, if_pos (busy_of_full hl)] at h
    cases h

/-- A completed access leads to the same block at rest, whether the pending command runs before or after it. -/
theorem restBlock_access {a : Access} {b c : Block} {r : Response} (h : busAccess b a = some (c, r))
    (rest : List Input) : restBlock rest c = restBlock (.access a :: rest) b := by
  rw [restBlock]
  by_cases hl : b.latch = none
  · rw [drained_of_empty hl, inputEffect_access h]
  · rw [inputEffect_of_busAccess_full h hl, restBlock_drained]
    obtain rfl | ⟨he, -⟩ | ⟨he, -⟩ := busAccess_cases h
    · rfl
    · exact absurd he hl
    · exact absurd he hl

theorem hostMove_restBlock {s t : State} (h : hostMove s = some t) :
    restBlock t.inputs t.block = restBlock s.inputs s.block := by
  obtain ⟨a, rest, b, r, hi, hb, rfl⟩ | ⟨rest, hi, rfl⟩ | ⟨rest, hi, rfl⟩ := hostMove_cases h
  · rw [hi]
    exact restBlock_access hb rest
  · cases hbusy : busy s.block with
    | true => simp
    | false => simp [hi, restBlock, inputEffect]
  · rw [hi]
    rfl

/-- No step changes the block at rest, whoever moves in it. -/
theorem step_restBlock {s t : State} (h : step s = .next t) :
    restBlock t.inputs t.block = restBlock s.inputs s.block := by
  unfold step at h
  obtain ⟨-, -, hs⟩ | ⟨u, -, hm, hs⟩ | ⟨w, u, -, -, hm, hs⟩ | ⟨w, hl, -, hs⟩ := sequence_cases s <;> rw [hs] at h
  · cases h
    rfl
  · cases h
    exact hostMove_restBlock hm
  · cases h
    exact (hostMove_restBlock hm :)
  · rw [coreStep_eq] at h
    cases h
    simp [← drained_of_latch hl]

theorem run_restBlock {k : Nat} {s t : State} (h : run k s = .next t) :
    restBlock t.inputs t.block = restBlock s.inputs s.block := by
  induction k generalizing s with
  | zero =>
    cases h
    rfl
  | succ k ih =>
    unfold run at h
    split at h
    next u hu => exact (ih h).trans (step_restBlock hu)
    all_goals cases h

/-- A state at rest holds its block at rest. -/
theorem restBlock_of_quiescent {s : State} (h : Quiescent s) : restBlock s.inputs s.block = s.block := by
  obtain ⟨hi, hl⟩ := h
  rw [hi]
  exact drained_of_empty hl

/-- Settles O55: both runs end with the block at rest of the block and the inputs they share. -/
theorem interleavingDoesNotMatter : Obligations.InterleavingDoesNotMatter := by
  intro s₁ s₂ t₁ t₂ k₁ k₂ hblock hinputs h₁ h₂ hq₁ hq₂
  calc t₁.block
    _ = restBlock s₁.inputs s₁.block := (restBlock_of_quiescent hq₁).symm.trans (run_restBlock h₁)
    _ = restBlock s₂.inputs s₂.block := by rw [hblock, hinputs]
    _ = t₂.block := (run_restBlock h₂).symm.trans (restBlock_of_quiescent hq₂)

end Sys2Proof.Machine
end

section
/-! The decoder and the encoder by the fields of a word, the rows of the opcode map, and the words the statements write. -/

namespace Sys2Proof.Machine

/-! ### The fields of a command word (30_encoding.md R72) -/

@[simp] theorem commandFields_assembleFields (f : CommandFields) : commandFields (assembleFields f) = f := by
  obtain ⟨op, data, rsv⟩ := f
  have hop : (rsv ++ data ++ op).extractLsb' 0 8 = op := extractLsb'_eq_of_getLsbD fun i hi => by
    simp only [BitVec.getLsbD_append]
    grind
  have hdata : (rsv ++ data ++ op).extractLsb' 8 8 = data := extractLsb'_eq_of_getLsbD fun i hi => by
    simp only [BitVec.getLsbD_append]
    grind
  have hrsv : (rsv ++ data ++ op).extractLsb' 16 16 = rsv := extractLsb'_eq_of_getLsbD fun i hi => by
    simp only [BitVec.getLsbD_append]
    grind
  simp [commandFields, assembleFields, hop, hdata, hrsv]

/-- A word and its fields determine each other. -/
theorem commandFields_eq_iff (w : Word) (f : CommandFields) : commandFields w = f ↔ w = assembleFields f := by
  constructor
  · rintro rfl
    exact (assembleFields_commandFields w).symm
  · rintro rfl
    exact commandFields_assembleFields f

@[simp] theorem commandFields_encode (i : Instr) : commandFields (encode i) = instrFields i :=
  commandFields_assembleFields _

/-! ### The decoder by fields (30_encoding.md R75, R76) -/

/-- A word with the fields of a command decodes to it. -/
theorem decode_of_commandFields {w : Word} {i : Instr} (h : commandFields w = instrFields i) : decode w = .ok i := by
  cases i <;> simp [decode, h, instrFields, opStart, opByte, opEnd, opSeed, opNext]

theorem decode_eq_ok_iff (w : Word) (i : Instr) : decode w = .ok i ↔ commandFields w = instrFields i :=
  ⟨commandFields_of_decode, decode_of_commandFields⟩

theorem decode_encode (i : Instr) : decode (encode i) = .ok i :=
  decode_of_commandFields (commandFields_encode i)

/-- The five opcodes of R75 are the numbers 1 to 5. -/
theorem mem_opcodes_iff (op : Byte) :
    op ∈ [opStart, opByte, opEnd, opSeed, opNext] ↔ 1 ≤ op.toNat ∧ op.toNat ≤ 5 := by
  simp only [List.mem_cons, List.not_mem_nil, or_false, opStart, opByte, opEnd, opSeed, opNext]
  bv_omega

theorem decode_of_rsv_ne_zero {w : Word} (h : (commandFields w).rsv ≠ 0) : decode w = .error .reservedBits :=
  if_pos h

theorem decode_of_op_unassigned {w : Word} (hr : (commandFields w).rsv = 0)
    (ho : ¬ (1 ≤ (commandFields w).op.toNat ∧ (commandFields w).op.toNat ≤ 5)) : decode w = .error .illegalOpcode := by
  rw [← mem_opcodes_iff] at ho
  simp only [decode, hr, ho, ne_eq, not_true, not_false_eq_true, if_true, if_false]

theorem decode_of_data_ne_zero {w : Word} (hr : (commandFields w).rsv = 0)
    (ho : (commandFields w).op ∈ [opStart, opEnd, opSeed]) (hd : (commandFields w).data ≠ 0) :
    decode w = .error .reservedBits := by
  have hm : (commandFields w).op ∈ [opStart, opByte, opEnd, opSeed, opNext] := by
    simp only [List.mem_cons, List.not_mem_nil, or_false] at ho ⊢
    tauto
  simp only [decode, hr, hm, ho, hd, ne_eq, not_true, not_false_eq_true, and_self, if_true, if_false]

/-! ### Well-formed words (30_encoding.md R77) -/

/-- A command's fields pass every check: the family `WordShape`, at the fields of its word. -/
theorem wellFormed_instrFields (i : Instr) : (instrFields i).wellFormed = true := by
  rw [← commandFields_encode]
  cases i with
  | start => exact Laws.WordShape.start.2
  | byte d => exact (Laws.WordShape.byte d).2
  | endMessage => exact Laws.WordShape.endMessage.2
  | seed => exact Laws.WordShape.seed.2
  | next d => exact (Laws.WordShape.next d).2

/-- The well-formed fields are the fields of the commands. -/
theorem wellFormed_iff (f : CommandFields) : f.wellFormed = true ↔ ∃ i, f = instrFields i := by
  constructor
  · intro h
    obtain ⟨op, data, rsv⟩ := f
    simp only [CommandFields.wellFormed, CommandFields.rsvClear, CommandFields.opAssigned, CommandFields.dataClear,
      CommandFields.takesData, Bool.and_eq_true, Bool.or_eq_true, beq_iff_eq, decide_eq_true_eq, ← mem_opcodes_iff] at h
    obtain ⟨⟨rfl, hop⟩, hdata⟩ := h
    simp only [List.mem_cons, List.not_mem_nil, or_false] at hop
    obtain rfl | rfl | rfl | rfl | rfl := hop
    · obtain rfl : data = 0 := hdata.resolve_left (by decide)
      exact ⟨.start, rfl⟩
    · exact ⟨.byte data, rfl⟩
    · obtain rfl : data = 0 := hdata.resolve_left (by decide)
      exact ⟨.endMessage, rfl⟩
    · obtain rfl : data = 0 := hdata.resolve_left (by decide)
      exact ⟨.seed, rfl⟩
    · exact ⟨.next data, rfl⟩
  · rintro ⟨i, rfl⟩
    exact wellFormed_instrFields i

/-- Settles O2, by the fields of the word. -/
theorem decodeOfEncodeIsIdentity : Obligations.DecodeOfEncodeIsIdentity := fun i =>
  ⟨decode_encode i, by rw [commandFields_encode]; exact wellFormed_instrFields i⟩

/-- Settles O3: the decoded words and the well-formed ones are those with the fields of a command. -/
theorem encodeOfDecodeIsIdentity : Obligations.EncodeOfDecodeIsIdentity :=
  ⟨fun _ _ => encode_of_decode, fun w =>
    (wellFormed_iff _).trans (exists_congr fun i => (decode_eq_ok_iff w i).symm)⟩

theorem instrFields_rsv (i : Instr) : (instrFields i).rsv = 0 := by cases i <;> rfl

theorem commandFields_ext {f g : CommandFields} (hop : f.op = g.op) (hdata : f.data = g.data) (hrsv : f.rsv = g.rsv) :
    f = g := by
  cases f
  cases g
  simp_all

/-- A word decodes to a command by its three fields, the opcode read as a number. -/
theorem decode_of_fields {w : Word} {i : Instr} (hr : (commandFields w).rsv = 0)
    (ho : (commandFields w).op.toNat = (instrFields i).op.toNat) (hd : (commandFields w).data = (instrFields i).data) :
    decode w = .ok i :=
  decode_of_commandFields
    (commandFields_ext (BitVec.eq_of_toNat_eq ho) hd (hr.trans (instrFields_rsv i).symm))

/-- Settles O5: the three tests that fail, and then the fields of each command. -/
theorem decoderFollowsTestOrder : Obligations.DecoderFollowsTestOrder := by
  intro w rsv op d
  refine ⟨decode_of_rsv_ne_zero, decode_of_op_unassigned, fun hr ho hd => decode_of_data_ne_zero hr ?_ hd,
    fun hr ho hd => decode_of_fields hr ho hd, fun hr ho => decode_of_fields hr ho rfl,
    fun hr ho hd => decode_of_fields hr ho hd, fun hr ho hd => decode_of_fields hr ho hd,
    fun hr ho => decode_of_fields hr ho rfl⟩
  simp only [List.mem_cons, List.not_mem_nil, or_false]
  exact ho.imp BitVec.eq_of_toNat_eq (Or.imp BitVec.eq_of_toNat_eq BitVec.eq_of_toNat_eq)

/-! ### Match and mask (30_encoding.md R75) -/

theorem decode_eq_ok_iff_encode (w : Word) (i : Instr) : decode w = .ok i ↔ w = encode i :=
  (decode_eq_ok_iff w i).trans (commandFields_eq_iff w _)

/-- The full mask selects one word. -/
theorem and_fullMask_eq_iff (w : Word) (i : Instr) : w &&& 0xFFFFFFFF = encode i ↔ decode w = .ok i := by
  have hmask : w &&& 0xFFFFFFFF = w := BitVec.and_allOnes
  rw [hmask, decode_eq_ok_iff_encode]

theorem assembleFields_injective : Function.Injective assembleFields :=
  Function.LeftInverse.injective commandFields_assembleFields

/-- The mask of BYTE and NEXT clears DATA and keeps the other fields. -/
theorem assembleFields_and_dataMask (f : CommandFields) :
    assembleFields f &&& 0xFFFF00FF = assembleFields { f with data := 0 } := by
  have hmask : (0xFFFF00FF : Word) = BitVec.allOnes 16 ++ (0 : Byte) ++ BitVec.allOnes 8 := by decide
  rw [hmask, assembleFields, BitVec.and_append, BitVec.and_append, BitVec.and_allOnes, BitVec.and_allOnes,
    BitVec.ofNat_eq_ofNat, BitVec.and_zero]
  rfl

/-- The mask of BYTE and NEXT selects OP with RSV 0, whatever DATA is. -/
theorem and_dataMask_eq_iff (w : Word) (op d : Byte) :
    w &&& 0xFFFF00FF = assembleFields ⟨op, 0, 0⟩ ∧ w.extractLsb' 8 8 = d ↔ commandFields w = ⟨op, d, 0⟩ := by
  change _ ∧ (commandFields w).data = d ↔ _
  obtain ⟨f, rfl⟩ : ∃ f, w = assembleFields f := ⟨_, (assembleFields_commandFields w).symm⟩
  rw [assembleFields_and_dataMask, assembleFields_injective.eq_iff, commandFields_assembleFields]
  obtain ⟨op', data, rsv⟩ := f
  simp only [CommandFields.mk.injEq]
  tauto

/-- BYTE's row of the opcode map. -/
theorem and_dataMask_eq_byte_iff (w : Word) (d : Byte) :
    w &&& 0xFFFF00FF = 0x00000002 ∧ w.extractLsb' 8 8 = d ↔ decode w = .ok (.byte d) :=
  (and_dataMask_eq_iff w opByte d).trans (decode_eq_ok_iff w (.byte d)).symm

/-- NEXT's row of the opcode map. -/
theorem and_dataMask_eq_next_iff (w : Word) (d : Byte) :
    w &&& 0xFFFF00FF = 0x00000005 ∧ w.extractLsb' 8 8 = d ↔ decode w = .ok (.next d) :=
  (and_dataMask_eq_iff w opNext d).trans (decode_eq_ok_iff w (.next d)).symm

/-- A word that a row selects decodes to a command of that row. -/
theorem decode_of_rowMatch {w : Word} {i : Instr} (h : w &&& rowMask i = rowMatch i) :
    ∃ k, decode w = .ok k ∧ rowMatch k = rowMatch i := by
  cases i with
  | start => exact ⟨.start, (and_fullMask_eq_iff w .start).mp h, rfl⟩
  | byte d => exact ⟨.byte _, (and_dataMask_eq_byte_iff w _).mp ⟨h, rfl⟩, rfl⟩
  | endMessage => exact ⟨.endMessage, (and_fullMask_eq_iff w .endMessage).mp h, rfl⟩
  | seed => exact ⟨.seed, (and_fullMask_eq_iff w .seed).mp h, rfl⟩
  | next d => exact ⟨.next _, (and_dataMask_eq_next_iff w _).mp ⟨h, rfl⟩, rfl⟩

/-- Settles O4: the rows one by one, and of two rows the command that both select. -/
theorem matchMaskSelectsCommand : Obligations.MatchMaskSelectsCommand := by
  refine ⟨fun w => and_fullMask_eq_iff w .start, and_dataMask_eq_byte_iff, fun w => and_fullMask_eq_iff w .endMessage,
    fun w => and_fullMask_eq_iff w .seed, and_dataMask_eq_next_iff, fun w hr ho => decode_of_op_unassigned hr ?_,
    fun w i j hi hj => ?_⟩
  · rintro ⟨hlow, hhigh⟩
    change (w.extractLsb' 0 8).toNat ≤ 5 at hhigh
    change 1 ≤ (w.extractLsb' 0 8).toNat at hlow
    obtain h0 | h6 := ho
    · simp [h0] at hlow
    · omega
  · obtain ⟨k, hk, hki⟩ := decode_of_rowMatch hi
    obtain ⟨l, hl, hlj⟩ := decode_of_rowMatch hj
    obtain rfl : k = l := by simpa [hk] using hl
    exact hki.symm.trans hlj

/-- Settles O1: each word is the one the encoder writes. -/
theorem specWordsDecode : Obligations.SpecWordsDecode :=
  ⟨decode_encode .start, decode_encode (.byte 0x61), decode_encode .endMessage, decode_encode .seed,
    decode_encode (.next 0x9A)⟩

/-! ### The words the statements write (30_encoding.md R79, R80) -/

/-- `shiftedByte` puts a byte at its place in a register word. -/
theorem or_shiftedByte_eq_packBytes (b0 b1 b2 b3 : Byte) :
    shiftedByte b3 24 ||| shiftedByte b2 16 ||| shiftedByte b1 8 ||| shiftedByte b0 0 = packBytes b0 b1 b2 b3 := by
  refine BitVec.eq_of_getLsbD_eq fun i hi => ?_
  change _ = (b3 ++ b2 ++ b1 ++ b0).getLsbD i
  simp only [shiftedByte, BitVec.getLsbD_or, BitVec.getLsbD_shiftLeft, BitVec.getLsbD_setWidth, BitVec.getLsbD_append]
  grind

/-- An opcode with a byte at bit 8 is the word with these fields. -/
theorem setWidth_or_shiftedByte (op d : Byte) : op.setWidth 32 ||| shiftedByte d 8 = assembleFields ⟨op, d, 0⟩ := by
  refine BitVec.eq_of_getLsbD_eq fun i hi => ?_
  change _ = ((0 : BitVec 16) ++ d ++ op).getLsbD i
  simp only [shiftedByte, BitVec.getLsbD_or, BitVec.getLsbD_shiftLeft, BitVec.getLsbD_setWidth, BitVec.getLsbD_append]
  grind

/-- Settles O57: the operand bytes stand in DATA. -/
theorem statementsWriteTheirCommands : Obligations.StatementsWriteTheirCommands :=
  ⟨rfl, rfl, rfl, fun b => congrArg (fun w => [writeCmd w]) (setWidth_or_shiftedByte opByte b),
    fun b => congrArg (fun w => [writeCmd w]) (setWidth_or_shiftedByte opNext b)⟩

end Sys2Proof.Machine
end

section
/-! Legality by phase, the core step on a word case by case, and SEEDB as three steps. -/

namespace Sys2Proof.Machine

/-! ### Legality by phase (30_encoding.md R78) -/

theorem legality_eq_ok {i : Instr} {p : Phase} (hp : p ≠ .error) (h : LegalIn i p) : legality i p = .ok := by
  cases i with
  | start => rfl
  | byte _ | endMessage =>
    obtain rfl : p = .absorbing := h
    rfl
  | seed | next _ => obtain rfl | rfl := h <;> rfl

theorem legality_eq_illegal {i : Instr} {p : Phase} (hp : p ≠ .error) (h : ¬ LegalIn i p) :
    legality i p = .illegal := by
  cases i with
  | start => exact absurd trivial h
  | byte _ | endMessage | seed | next _ => cases p <;> simp_all [legality, LegalIn]

/-- Settles O30, by the frame of every command. -/
theorem outOfSequenceEntersError : Obligations.OutOfSequenceEntersError := by
  intro i s hp h
  rw [exec_eq_perform, perform, legality_eq_illegal hp h]
  rfl

/-- A legal command does not enter ERROR. -/
theorem commandEffect_phase_ne_error {b : Block} (hp : b.phase ≠ .error) (i : Instr) :
    (commandEffect i b).phase ≠ .error := by
  cases i with
  | start => simp [commandEffect]
  | byte d => simpa [commandEffect] using hp
  | endMessage => simp [commandEffect]
  | seed => exact hp
  | next d => exact hp

/-! ### The core step on a word, case by case (45_commands.md R110, 60_exceptions.md R127) -/

theorem coreBlock_of_discarded {w : Word} {b : Block} (hp : b.phase = .error) (hw : w ≠ startWord) :
    coreBlock w b = emptyLatch b :=
  if_pos ⟨hp, hw⟩

theorem coreBlock_of_illegal {w : Word} {i : Instr} {b : Block} (hp : b.phase ≠ .error) (hd : decode w = .ok i)
    (hi : legality i b.phase = .illegal) : coreBlock w b = enterError .illegalSequence w (emptyLatch b) := by
  simp [coreBlock, hp, hd, hi, encode_of_decode hd]

theorem coreBlock_of_legal {w : Word} {i : Instr} {b : Block} (hd : decode w = .ok i)
    (hi : legality i b.phase = .ok) : coreBlock w b = commandEffect i (emptyLatch b) :=
  (coreStep_effect (coreStep_eq w { State.reset with block := b })).eq_commandEffect hd hi

/-- A step that executes w is the core step on w, with the turn taken. -/
theorem step_of_executes {s : State} {w : Word} (h : Executes s w) :
    step s = .next ((takeTurn s).mapBlock (coreBlock w)) := by
  obtain ⟨hl, hmoves⟩ := h
  obtain ⟨he, -⟩ | ⟨_, he, -⟩ | ⟨v, t, hv, ht, hm, -⟩ | ⟨v, hv, -, hs⟩ := sequence_cases s
  · simp [hl] at he
  · simp [hl] at he
  · simp [CoreMoves, ht, hm] at hmoves
  · obtain rfl : w = v := by simpa [hl] using hv
    exact hs.trans (coreStep_eq w _)

/-- Settles O33, by the case of the core step that each clause names. -/
theorem legalityByPhase : Obligations.LegalityByPhase := by
  intro s w hx
  have hstep := step_of_executes hx
  refine ⟨fun i hd hp hi => ⟨_, hstep, ?_⟩, fun i hd hp hi => ⟨_, hstep, ?_⟩, fun hp hw => ⟨_, hstep, ?_⟩,
    fun hp hw => ⟨_, hstep, coreBlock_of_discarded hp hw⟩⟩
  · rw [mapBlock_block, takeTurn_block, coreBlock_of_legal hd (legality_eq_ok hp hi)]
    exact commandEffect_phase_ne_error (b := emptyLatch s.block) hp i
  · rw [mapBlock_block, takeTurn_block, coreBlock_of_illegal hp hd (legality_eq_illegal hp hi)]
    exact ⟨rfl, rfl, rfl⟩
  · obtain rfl : w = startWord := hw
    rw [mapBlock_block, coreBlock_of_legal decode_startWord (legality_start _)]
    rfl

/-! ### SEEDB (30_encoding.md R80) -/

/-- SEED takes its four bytes from the word that packs them (30_encoding.md R74, 45_commands.md R115). -/
theorem seedBlock_of_arg {k : Block} {a b c d : Byte} (h : k.arg = packBytes a b c d) :
    seedBlock k = prngSeed k a b c d := by
  have byte (j : Nat) (hj : j < 4) : wordByte k.arg j = [a, b, c, d].getD j 0 :=
    h ▸ packBytes_byte (fun j => [a, b, c, d].getD j 0) hj
  rw [seedBlock, seedX, seedY, seedZ, seedW, byte 0 (by decide), byte 1 (by decide), byte 2 (by decide),
    byte 3 (by decide)]
  rfl

theorem run_succ_of_step {k : Nat} {s t : State} (h : step s = .next t) : run (k + 1) s = run k t := by
  rw [run, h]

/-- A write to ARG with LATCH empty, as a step (20_memory.md R61). -/
theorem step_writeArg {s : State} {v : Word} {rest : List Input} (hl : s.block.latch = none)
    (hi : s.inputs = writeArg v :: rest) :
    step s = .next { s with block := setArg s.block v, inputs := rest, responses := s.responses ++ [.written] } := by
  have hb := (busAccess_write_arg s.block v).trans (if_neg (by simp [busy_of_empty hl]))
  simpa [turnsAfter, hl] using accessTakesPlace s _ rest _ _ hi (.inl hl) hb

/-- A write to CMD with LATCH empty, as a step (20_memory.md R60). -/
theorem step_writeCmd {s : State} {v : Word} {rest : List Input} (hl : s.block.latch = none)
    (hi : s.inputs = writeCmd v :: rest) :
    step s = .next { s with block := fillLatch s.block v, inputs := rest, responses := s.responses ++ [.written] } := by
  have hb := (busAccess_write_cmd s.block v).trans (if_neg (by simp [busy_of_empty hl]))
  simpa [turnsAfter, hl] using accessTakesPlace s _ rest _ _ hi (.inl hl) hb

/-- With no input left the core runs the pending command. -/
theorem executes_of_no_inputs {s : State} {w : Word} (hl : s.block.latch = some w) (hi : s.inputs = []) :
    Executes s w :=
  ⟨hl, .inr (by simp [hostMove, hi])⟩

theorem emptyLatch_fillLatch {k : Block} (h : k.latch = none) (v : Word) : emptyLatch (fillLatch k v) = k := by
  simp [emptyLatch, fillLatch, ← h]

/-- The core step on a latched SEED, in IDLE or DONE. -/
theorem coreBlock_fillLatch_seed {k : Block} (hl : k.latch = none) (hp : k.phase = .idle ∨ k.phase = .done) :
    coreBlock (encode .seed) (fillLatch k (encode .seed)) = seedBlock k := by
  have hi : legality .seed k.phase = .ok := by
    obtain hp | hp := hp <;> rw [hp] <;> rfl
  rw [coreBlock_of_legal (b := fillLatch k _) (decode_encode .seed) hi, emptyLatch_fillLatch hl]
  rfl

/-- Settles O58: the write to ARG, the write to CMD, and the core step of SEED. -/
theorem seedbLoadsThePrng : Obligations.SeedbLoadsThePrng := by
  intro s a b c d hl hp hi
  rw [stmtInputs, or_shiftedByte_eq_packBytes] at hi
  have hrun := calc run 3 s
    _ = run 2 _ := run_succ_of_step (step_writeArg hl hi)
    _ = run 1 _ := run_succ_of_step (step_writeCmd hl rfl)
    _ = run 0 _ := run_succ_of_step (step_of_executes (executes_of_no_inputs rfl rfl))
  refine ⟨_, hrun, ⟨rfl, coreBlock_latch _ _⟩, ?_⟩
  calc coreBlock (encode .seed) (fillLatch (setArg s.block (packBytes a b c d)) (encode .seed))
    _ = seedBlock (setArg s.block (packBytes a b c d)) := coreBlock_fillLatch_seed hl hp
    _ = prngSeed (setArg s.block (packBytes a b c d)) a b c d := seedBlock_of_arg rfl
    _ = _ := rfl

end Sys2Proof.Machine
end

section
/-! The PRNG core: the formulas of 40_prng.md R82 on unbounded integers as operations on bytes, which are linear, and the
zero state. -/

namespace Sys2Proof.Machine

/-! ### Masking and narrowing (40_prng.md R83) -/

/-- Narrowing to a byte makes the mask superfluous. -/
theorem ofNat_and_mask (n : Nat) : BitVec.ofNat 8 (n &&& Config.mask) = BitVec.ofNat 8 n := by
  rw [BitVec.ofNat_and]
  exact BitVec.and_allOnes

/-- A masked value is the value of a byte. -/
theorem toNat_ofNat_and_mask (n : Nat) : (BitVec.ofNat 8 (n &&& Config.mask)).toNat = n &&& Config.mask :=
  Nat.mod_eq_of_lt (Nat.and_lt_two_pow n (by decide : Config.mask < 2 ^ 8))

theorem ofNat_toNat_shiftRight (v : Byte) (k : Nat) : BitVec.ofNat 8 (v.toNat >>> k) = v >>> k := by
  rw [← BitVec.toNat_ushiftRight, BitVec.ofNat_toNat, BitVec.setWidth_eq]

theorem ofNat_toNat_shiftLeft (v : Byte) (k : Nat) : BitVec.ofNat 8 (v.toNat <<< k) = v <<< k := rfl

/-- Under a final mask, a mask on the last operand is superfluous. -/
theorem xor_and_mask_idem (m n : Nat) :
    (m ^^^ (n &&& Config.mask)) &&& Config.mask = (m ^^^ n) &&& Config.mask := by
  rw [Nat.and_xor_distrib_right, Nat.and_assoc, Nat.and_self, ← Nat.and_xor_distrib_right]

/-- Settles O7: the final mask absorbs the inner one, and the model's t carries the final mask. -/
theorem maskOrderDoesNotMatter : Obligations.MaskOrderDoesNotMatter := fun x d =>
  have hmask := (xor_and_mask_idem (x.toNat ^^^ d.toNat) (x.toNat <<< 3)).symm
  ⟨hmask, (toNat_ofNat_and_mask _).trans hmask⟩

/-! ### The formulas on bytes (40_prng.md R85) -/

/-- t of R82 is R85's formula on bytes. -/
theorem prngMix_eq_mixLaw (x d : Byte) : prngMix x d = mixLaw x d := by
  simp only [prngMix, mixLaw, ofNat_and_mask, BitVec.ofNat_xor, ofNat_toNat_shiftLeft, BitVec.ofNat_toNat,
    BitVec.setWidth_eq]

/-- The feedback of R82 on bytes. -/
theorem prngFeedback_eq (w t : Byte) : prngFeedback w t = w ^^^ (w >>> 1) ^^^ t ^^^ (t <<< 2) := by
  simp only [prngFeedback, ofNat_and_mask, BitVec.ofNat_xor, ofNat_toNat_shiftLeft, ofNat_toNat_shiftRight,
    BitVec.ofNat_toNat, BitVec.setWidth_eq]

/-- The byte prng_next returns is R85's formula on bytes. -/
theorem prngByte_eq_nextLaw (b : Block) (d : Byte) : prngByte b d = nextLaw b.x b.w d := by
  rw [prngByte, prngFeedback_eq, prngMix_eq_mixLaw, nextLaw]

/-! ### Linearity over GF(2) (40_prng.md R85) -/

theorem mixLaw_xor (x x' d d' : Byte) : mixLaw (x ^^^ x') (d ^^^ d') = mixLaw x d ^^^ mixLaw x' d' := by
  simp only [mixLaw, BitVec.shiftLeft_xor_distrib]
  ac_rfl

theorem nextLaw_xor (x x' w w' d d' : Byte) :
    nextLaw (x ^^^ x') (w ^^^ w') (d ^^^ d') = nextLaw x w d ^^^ nextLaw x' w' d' := by
  simp only [nextLaw, mixLaw_xor, BitVec.shiftLeft_xor_distrib, BitVec.ushiftRight_xor_distrib]
  ac_rfl

/-- The returned byte is linear in X, W and the input. -/
theorem prngByte_xor {a b c : Block} (hx : c.x = a.x ^^^ b.x) (hw : c.w = a.w ^^^ b.w) (d e : Byte) :
    prngByte c (d ^^^ e) = prngByte a d ^^^ prngByte b e := by
  rw [prngByte_eq_nextLaw, prngByte_eq_nextLaw, prngByte_eq_nextLaw, hx, hw, nextLaw_xor]

/-- Settles O9: X, Y and Z take the old Y, Z and W, and W and OUT the returned byte. -/
theorem prngNextIsLinear : Obligations.PrngNextIsLinear :=
  ⟨fun b d => ⟨prngMix_eq_mixLaw b.x d, prngByte_eq_nextLaw b d⟩, fun _ _ _ d e hx hy hz hw =>
    ⟨hy, hz, hw, prngByte_xor hx hw d e, prngByte_xor hx hw d e⟩⟩

/-! ### The zero state (40_prng.md R84) -/

/-- X, Y, Z and W are all 0. -/
def PrngZero (b : Block) : Prop := b.x = 0 ∧ b.y = 0 ∧ b.z = 0 ∧ b.w = 0

theorem prngZero_prngSeed (b : Block) : PrngZero (prngSeed b 0 0 0 0) := ⟨rfl, rfl, rfl, rfl⟩

/-- The zero state returns 0 on input 0. -/
theorem PrngZero.prngByte_eq_zero {b : Block} (h : PrngZero b) : prngByte b 0 = 0 := by
  obtain ⟨hx, -, -, hw⟩ := h
  rw [prngByte_eq_nextLaw, hx, hw]
  rfl

/-- Input 0 keeps the zero state. -/
theorem PrngZero.after_prngNext {b : Block} (h : PrngZero b) : PrngZero (prngNext b 0) := by
  have hbyte := h.prngByte_eq_zero
  obtain ⟨-, hy, hz, hw⟩ := h
  exact ⟨hy, hz, hw, hbyte⟩

/-- Settles O8: the zero state is an invariant of the calls, and OUT takes the byte the last of them returns. -/
theorem zeroPrngStateIsFixed : Obligations.ZeroPrngStateIsFixed := by
  intro b s
  have hzero (n : Nat) : PrngZero (s n) :=
    forRange_keeps PrngZero 0 n _ _ (prngZero_prngSeed b) fun _ _ _ _ h => h.after_prngNext
  refine ⟨prngMix_eq_mixLaw 0 0, fun n => ?_⟩
  have hnext : s (n + 1) = prngNext (s n) 0 := forRange_succ 0 n _ _
  have hbyte : prngByte (s n) 0 = 0 := (hzero n).prngByte_eq_zero
  obtain ⟨hx, hy, hz, hw⟩ := hzero n
  exact ⟨hx, hy, hz, hw, hbyte, by rw [hnext, prngNext_out, hbyte]⟩

/-! ### What prng_seed and prng_next read and write (40_prng.md R81, R87) -/

/-- Settles O6, by the definition. -/
theorem seedSetsPrngState : Obligations.SeedSetsPrngState := fun _ _ _ _ _ => rfl

/-- Of the block, the returned byte reads X and W only. -/
theorem prngByte_congr {b c : Block} (hx : b.x = c.x) (hw : b.w = c.w) (d : Byte) : prngByte b d = prngByte c d := by
  rw [prngByte, prngByte, hx, hw]

/-- Settles O10: the new X, Y, Z are the old Y, Z, W, and the new W and OUT the returned byte. -/
theorem prngNextFootprint : Obligations.PrngNextFootprint := fun _ _ d =>
  ⟨fun hx hy hz hw => ⟨hy, hz, hw, prngByte_congr hx hw d, prngByte_congr hx hw d⟩, rfl⟩

end Sys2Proof.Machine
end

section
/-! The padded message, and END's pad bytes as the bytes of pad(m) after m (41_padding.md). -/

namespace Sys2Proof.Machine

/-! ### The padded message (41_padding.md R88, R89) -/

theorem padLength_pos (n : Nat) : 1 ≤ padLength n := Nat.sub_pos_of_lt (Nat.mod_lt n (by decide))

theorem padLength_le_four (n : Nat) : padLength n ≤ 4 := Nat.sub_le 4 (n % 4)

/-- Padding ends at the next multiple of four, strictly after the message (41_padding.md R89). -/
theorem add_padLength (n : Nat) : n + padLength n = 4 * (n / 4 + 1) := by
  have hp : padLength n = 4 - n % 4 := rfl
  omega

/-- The number of pad bytes depends on the length modulo 4 only. -/
theorem padLength_congr {n k : Nat} (h : n % 4 = k % 4) : padLength n = padLength k := congrArg (4 - ·) h

/-- The pad bytes of a message of n bytes: p copies of the byte p (41_padding.md R88). -/
def padBytes (n : Nat) : List Byte := List.replicate (padLength n) (BitVec.ofNat 8 (padLength n))

theorem pad_eq_append (m : List Byte) : pad m = m ++ padBytes m.length := rfl

theorem pad_length (m : List Byte) : (pad m).length = m.length + padLength m.length := by
  rw [pad_eq_append, List.length_append, padBytes, List.length_replicate]

theorem pad_take (m : List Byte) : (pad m).take m.length = m := List.take_left

theorem pad_drop (m : List Byte) : (pad m).drop m.length = padBytes m.length := List.drop_left

/-- Settles O11: p is the pad length, and pad(m) is m followed by the pad bytes. -/
theorem padShape : Obligations.PadShape := by
  intro m
  have hlen : (pad m).length = 4 * (m.length / 4 + 1) := (pad_length m).trans (add_padLength _)
  exact ⟨padLength m.length, padLength_pos _, padLength_le_four _, pad_length m, hlen, by omega, pad_take m, pad_drop m⟩

/-! ### END's pad bytes (41_padding.md R91) -/

/-- Taking n copies of a byte is a loop of n iterations that each take it. -/
theorem forRange_absorbByte (lo n : Nat) (v : Byte) (b : Block) :
    forRange lo n (fun _ c => absorbByte c v) b = takeBytes (List.replicate n v) b := by
  induction n with
  | zero => rfl
  | succ n ih => rw [forRange_succ, ih, List.replicate_succ', takeBytes_concat]

/-- END takes the pad bytes of a message of COUNT bytes (45_commands.md R114). -/
theorem padBlock_eq_takeBytes (b : Block) : padBlock b = takeBytes (padBytes b.count.toNat) b :=
  forRange_absorbByte ..

/-- COUNT is the message length modulo 2^32, and 2^32 is a multiple of 4 (10_state.md R32). -/
theorem takeBytes_startBlock_count_mod (b : Block) (m : List Byte) :
    (takeBytes m (startBlock b)).count.toNat % 4 = m.length % 4 := by
  have hcount : (takeBytes m (startBlock b)).count = BitVec.ofNat 32 m.length := by
    rw [takeBytes_count, startBlock_count]
    exact BitVec.zero_add _
  rw [hcount, BitVec.toNat_ofNat]
  exact Nat.mod_mod_of_dvd _ (by decide)

/-- Settles O12: COUNT and the message length agree modulo 4, so they give the same pad bytes. -/
theorem endAppendsThePadBytes : Obligations.EndAppendsThePadBytes := by
  intro b m c
  have hmod : c.count.toNat % 4 = m.length % 4 := takeBytes_startBlock_count_mod b m
  refine ⟨hmod, ?_⟩
  rw [padBlock_eq_takeBytes, pad_drop, padBytes, padLength_congr hmod, padBytes]

end Sys2Proof.Machine
end

section
/-! Taking a padded message byte by byte as `absorb` of the whole message, and the diffusion pass round by round
(42_absorb.md). -/

namespace Sys2Proof.Machine

/-! ### The part of the block that absorption reads and writes -/

/-- Agreement on ws and the PRNG bytes, which are all that the absorber reads (40_prng.md R87, 42_absorb.md R92). -/
structure SameAbsorption (b c : Block) : Prop where
  ws : b.ws = c.ws
  x : b.x = c.x
  y : b.y = c.y
  z : b.z = c.z
  w : b.w = c.w

theorem SameAbsorption.wsGet_eq {b c : Block} (h : SameAbsorption b c) (i : WsIndex) : wsGet b i = wsGet c i :=
  wsGet_congr h.ws i

/-- The same index and input byte keep the agreement. -/
theorem SameAbsorption.after_xorNext {b c : Block} (h : SameAbsorption b c) (i : WsIndex) (d : Byte) :
    SameAbsorption (xorNext b i d) (xorNext c i d) := by
  have hbyte : prngByte b d = prngByte c d := prngByte_congr h.x h.w d
  exact { ws := by simp [h.ws, h.wsGet_eq, hbyte], x := h.y, y := h.z, z := h.w, w := hbyte }

/-! ### The diffusion pass (42_absorb.md R94) -/

/-- Round r of the diffusion pass from pos0. -/
def diffuseRound (pos0 : WsIndex) (r : Nat) (b : Block) : Block :=
  xorNext b (diffuseIndex pos0 r) (wsGet b (diffuseIndex pos0 r))

theorem wsIndex_mod (n : Nat) : wsIndex n = BitVec.ofNat 7 (n % 128) :=
  BitVec.eq_of_toNat_eq (by simp [wsIndex])

theorem diffuse_eq_forRange (b : Block) (pos0 : WsIndex) : diffuse b pos0 = forRange 0 256 (diffuseRound pos0) b := by
  simp only [diffuse, wsIndex_mod]
  rfl

/-- Two loops whose iterations keep a relation between their states keep it throughout. -/
theorem forRange_relates {α β : Type} (R : α → β → Prop) (lo n : Nat) {f : Nat → α → α} {g : Nat → β → β} {a : α} {b : β}
    (h : R a b) (hstep : ∀ k a b, R a b → R (f k a) (g k b)) : R (forRange lo n f a) (forRange lo n g b) := by
  induction n with
  | zero => exact h
  | succ n ih =>
    rw [forRange_succ, forRange_succ]
    exact hstep _ _ _ ih

theorem SameAbsorption.after_diffuse {b c : Block} (h : SameAbsorption b c) (pos0 : WsIndex) :
    SameAbsorption (diffuse b pos0) (diffuse c pos0) := by
  rw [diffuse_eq_forRange, diffuse_eq_forRange]
  refine forRange_relates SameAbsorption 0 256 h fun r b c hr => ?_
  rw [diffuseRound, diffuseRound, hr.wsGet_eq]
  exact hr.after_xorNext _ _

/-- The model's write to the working state is the law of 40_prng.md R85 at one index. -/
theorem xorsNext_xorNext (i : WsIndex) (d : Byte) (b : Block) : XorsNext i d b (xorNext b i d) := by
  rw [XorsNext, ← prngByte_eq_nextLaw]
  refine ⟨rfl, ?_, fun j hj => ?_⟩
  · rw [wsGet_xorNext, if_pos rfl]
  · rw [wsGet_xorNext, if_neg hj]

theorem diffuses_diffuse (b : Block) (pos0 : WsIndex) : Diffuses pos0 b (diffuse b pos0) := by
  refine ⟨fun r => forRange 0 r (diffuseRound pos0) b, rfl, (diffuse_eq_forRange b pos0).symm, fun r _ => ?_⟩
  simp only [forRange_succ, Nat.zero_add]
  exact xorsNext_xorNext _ _ _

theorem diffuseIndex_eq_iff (pos0 i : WsIndex) (r : Nat) :
    diffuseIndex pos0 r = i ↔ (pos0.toNat + r) % 128 = i.toNat := by
  rw [← BitVec.toNat_inj]
  simp [diffuseIndex]

theorem diffuseIndex_zero (pos0 : WsIndex) : diffuseIndex pos0 0 = pos0 :=
  (diffuseIndex_eq_iff pos0 pos0 0).mpr (Nat.mod_eq_of_lt pos0.isLt)

/-- The rounds at index i are the first one at distance i - pos0 modulo 128, and the one 128 later. -/
theorem diffuseIndex_visits_twice (pos0 i : WsIndex) :
    ∃ r, r < 128 ∧ ∀ k, k < 256 → (diffuseIndex pos0 k = i ↔ k = r ∨ k = r + 128) := by
  have hpos : pos0.toNat < 128 := pos0.isLt
  have hi : i.toNat < 128 := i.isLt
  refine ⟨(i.toNat + 128 - pos0.toNat) % 128, Nat.mod_lt _ (by decide), fun k hk => ?_⟩
  rw [diffuseIndex_eq_iff]
  omega

/-! ### The seed bytes (42_absorb.md R99) -/

/-- The block on which `absorb` starts to fold: ws cleared, the PRNG seeded (42_absorb.md R92, steps 1 and 2). -/
def absorbSeeded (pm : List Byte) (c : Block) : Block :=
  prngSeed (clearWs c) (pm.getD 0 0) (pm.getD 1 0) (pm.getD 2 0) (pm.getD 3 0)

/-- The block and POS after `absorb` has folded n bytes (42_absorb.md R92, step 3). -/
def absorbFolded (pm : List Byte) (n : Nat) (c : Block) : Block × WsIndex :=
  forRange 4 n (absorbIndex pm) (absorbSeeded pm c, 0)

theorem absorb_eq_diffuse (pm : List Byte) (c : Block) :
    absorb pm c = diffuse (absorbFolded pm (pm.length - 4) c).1 (absorbFolded pm (pm.length - 4) c).2 := rfl

theorem absorbFolded_succ (pm : List Byte) (n : Nat) (c : Block) :
    absorbFolded pm (n + 1) c = absorbIndex pm (4 + n) (absorbFolded pm n c) :=
  forRange_succ ..

/-- The four bytes after START go to X, Y, Z and W, the last of them setting SEEDED. -/
theorem takeBytes_startBlock_four (b : Block) (v0 v1 v2 v3 : Byte) :
    takeBytes [v0, v1, v2, v3] (startBlock b) =
      { startBlock b with x := v0, y := v1, z := v2, w := v3, seeded := true, count := 4 } := by
  simp [takeBytes, absorbByte, bumpCount, Config.prngBytes]

/-- The streamed block and the batch block with its local variable pos: the same state of absorption, POS at pos. -/
structure StreamMatches (s : Block) (a : Block × WsIndex) : Prop where
  same : SameAbsorption s a.1
  pos : s.pos = a.2

/-- After four bytes the streamed block has what the batch seeding leaves. -/
theorem streamMatches_seeded (b c : Block) {pm : List Byte} (h : 4 ≤ pm.length) :
    StreamMatches (takeBytes (pm.take 4) (startBlock b)) (absorbFolded pm 0 c) := by
  match pm, h with
  | v0 :: v1 :: v2 :: v3 :: rest, _ =>
    change StreamMatches (takeBytes [v0, v1, v2, v3] (startBlock b)) _
    rw [takeBytes_startBlock_four]
    exact ⟨⟨rfl, rfl, rfl, rfl, rfl⟩, rfl⟩

/-! ### The folded bytes (45_commands.md R111 against 42_absorb.md R92) -/

/-- The working-state index does not see COUNT's wrap: 2^32 is a multiple of 128. -/
theorem wsIndex_ofNat_toNat (n : Nat) : wsIndex (BitVec.ofNat 32 n).toNat = wsIndex n := by
  rw [wsIndex_mod, wsIndex_mod, BitVec.toNat_ofNat, Nat.mod_mod_of_dvd n (by decide : 128 ∣ 2 ^ 32)]

theorem absorbByte_of_seeded {b : Block} (h : b.seeded = true) (v : Byte) :
    absorbByte b v = bumpCount (xorNext (setPos b (wsIndex b.count.toNat)) (wsIndex b.count.toNat) v) := by
  simp [absorbByte, absorbStep, h]

/-- After START and n ≥ 4 bytes, the next byte is folded at n mod 128. -/
theorem absorbByte_takeBytes_startBlock (b : Block) {m : List Byte} (h : 4 ≤ m.length) (v : Byte) :
    absorbByte (takeBytes m (startBlock b)) v =
      bumpCount (xorNext (setPos (takeBytes m (startBlock b)) (wsIndex m.length)) (wsIndex m.length) v) := by
  have hseeded : (takeBytes m (startBlock b)).seeded = true := by rw [takeBytes_startBlock_seeded, decide_eq_true h]
  have hcount : (takeBytes m (startBlock b)).count = BitVec.ofNat 32 m.length := by
    rw [takeBytes_count, startBlock_count]
    exact BitVec.zero_add _
  rw [absorbByte_of_seeded hseeded, hcount, wsIndex_ofNat_toNat]

/-- Writes to POS and COUNT are outside what absorption reads. -/
theorem SameAbsorption.after_fold {b c : Block} (h : SameAbsorption b c) (i : WsIndex) (v : Byte) :
    SameAbsorption (bumpCount (xorNext (setPos b i) i v)) (absorbStep c i v) := by
  have hset : SameAbsorption (setPos b i) c := ⟨h.ws, h.x, h.y, h.z, h.w⟩
  obtain ⟨hws, hx, hy, hz, hw⟩ := hset.after_xorNext i v
  exact ⟨hws, hx, hy, hz, hw⟩

/-- Streaming the first 4 + n bytes matches the batch loop after n iterations. -/
theorem streamMatches_folded (b c : Block) {pm : List Byte} {n : Nat} (h : 4 + n ≤ pm.length) :
    StreamMatches (takeBytes (pm.take (4 + n)) (startBlock b)) (absorbFolded pm n c) := by
  induction n with
  | zero => exact streamMatches_seeded b c h
  | succ n ih =>
    have hlt : 4 + n < pm.length := h
    have hlen : (pm.take (4 + n)).length = 4 + n := List.length_take_of_le hlt.le
    have hbyte : pm.getD (4 + n) 0 = pm[4 + n] := List.getD_eq_getElem _ _ hlt
    obtain ⟨hsame, -⟩ := ih hlt.le
    rw [← Nat.add_assoc, List.take_succ_eq_append_getElem hlt, takeBytes_concat,
      absorbByte_takeBytes_startBlock b (by omega), hlen, absorbFolded_succ, ← hbyte]
    exact ⟨hsame.after_fold _ _, rfl⟩

/-- Streaming a whole padded message matches the batch loop before its diffusion. -/
theorem streamMatches_all (b c : Block) {pm : List Byte} (h : 4 ≤ pm.length) :
    StreamMatches (takeBytes pm (startBlock b)) (absorbFolded pm (pm.length - 4) c) := by
  have hlen : 4 + (pm.length - 4) = pm.length := Nat.add_sub_cancel' h
  have hmatch := streamMatches_folded b c hlen.le
  rwa [hlen, List.take_length] at hmatch

/-- The pos that the batch loop hands to the diffusion (42_absorb.md R98). -/
theorem absorbFolded_pos (pm : List Byte) (n : Nat) (c : Block) : (absorbFolded pm n c).2 = posAfter (4 + n) := by
  cases n with
  | zero => rfl
  | succ n => rw [absorbFolded_succ, posAfter, if_neg (by omega)]; rfl

/-- START, the padded bytes one at a time and the diffusion from POS leave what `absorb` leaves. -/
theorem sameAbsorption_diffuse_takeBytes (b c : Block) {pm : List Byte} (h : 4 ≤ pm.length) :
    SameAbsorption (diffuse (takeBytes pm (startBlock b)) (takeBytes pm (startBlock b)).pos) (absorb pm c) := by
  obtain ⟨hsame, hpos⟩ := streamMatches_all b c h
  rw [absorb_eq_diffuse, hpos]
  exact hsame.after_diffuse _

/-- POS after START and the bytes of a padded message (42_absorb.md R98). -/
theorem takeBytes_startBlock_pos (b : Block) {pm : List Byte} (h : 4 ≤ pm.length) :
    (takeBytes pm (startBlock b)).pos = posAfter pm.length := by
  rw [(streamMatches_all b b h).pos, absorbFolded_pos, Nat.add_sub_cancel' h]

/-- Settles O14: the streamed block matches the batch loop before its diffusion, the diffusion reads nothing else, and its
256 rounds go twice round the 128 indices. -/
theorem streamedBytesAbsorbAsBatch : Obligations.StreamedBytesAbsorbAsBatch := by
  refine ⟨fun b c m => ?_, diffuses_diffuse, fun pos0 i => ⟨diffuseIndex_zero pos0, diffuseIndex_visits_twice pos0 i⟩⟩
  obtain ⟨_, -, -, -, -, hlen, -⟩ := padShape m
  obtain ⟨hws, hx, hy, hz, hw⟩ := sameAbsorption_diffuse_takeBytes b c hlen
  exact ⟨hws, hx, hy, hz, hw, takeBytes_startBlock_pos b hlen⟩

end Sys2Proof.Machine
end

section
/-! `finalize` pass by pass: what it reads, the all-zero working state, and the linearity over GF(2) of `finalize` and
`absorb` (43_finalize.md). -/

namespace Sys2Proof.Machine

/-! ### The passes (43_finalize.md R100) -/

/-- The reseed at the start of pass q. -/
def finalSeed (q : Nat) (b : Block) : Block :=
  prngSeed b (wsGet b (wsIndex (4 * q))) (wsGet b (wsIndex (4 * q + 1))) (wsGet b (wsIndex (4 * q + 2)))
    (wsGet b (wsIndex (4 * q + 3)))

/-- The XOR into ws[j] in a pass. -/
def finalRound (j : Nat) (b : Block) : Block := xorNext b (wsIndex j) 0

theorem finalizePass_eq_forRange (q : Nat) (b : Block) : finalizePass q b = forRange 0 128 finalRound (finalSeed q b) :=
  rfl

/-- The last pass is pass 31. -/
theorem finalize_eq_last_pass (b : Block) : finalize b = finalizePass 31 (forRange 0 31 finalizePass b) :=
  forRange_succ 0 31 finalizePass b

theorem finalPass_finalizePass (q : Nat) (b : Block) : FinalPass q b (finalizePass q b) := by
  refine ⟨fun j => forRange 0 j finalRound (finalSeed q b), rfl, (finalizePass_eq_forRange q b).symm, fun j _ => ?_⟩
  simp only [forRange_succ, Nat.zero_add]
  exact xorsNext_xorNext _ _ _

theorem finalizes_finalize (b : Block) : Finalizes b (finalize b) := by
  refine ⟨fun q => forRange 0 q finalizePass b, rfl, rfl, fun q _ => ?_⟩
  simp only [forRange_succ, Nat.zero_add]
  exact finalPass_finalizePass _ _

/-- A pass ends with a prng_next, which leaves the same byte in OUT and W. -/
theorem finalizePass_out (q : Nat) (b : Block) : (finalizePass q b).out = (finalizePass q b).w := by
  rw [finalizePass_eq_forRange, forRange_succ 0 127]
  rfl

theorem finalize_out (b : Block) : (finalize b).out = (finalize b).w := by
  rw [finalize_eq_last_pass, finalizePass_out]

/-! ### What finalize reads (43_finalize.md R102) -/

/-- The reseed overwrites X, Y, Z and W, so after it only ws at entry counts. -/
theorem sameAbsorption_finalSeed {b c : Block} (h : b.ws = c.ws) (q : Nat) :
    SameAbsorption (finalSeed q b) (finalSeed q c) where
  ws := h
  x := wsGet_congr h _
  y := wsGet_congr h _
  z := wsGet_congr h _
  w := wsGet_congr h _

theorem sameAbsorption_finalizePass {b c : Block} (h : b.ws = c.ws) (q : Nat) :
    SameAbsorption (finalizePass q b) (finalizePass q c) :=
  forRange_relates SameAbsorption 0 128 (sameAbsorption_finalSeed h q) fun _ _ _ hr => hr.after_xorNext _ _

theorem sameAbsorption_finalize {b c : Block} (h : b.ws = c.ws) : SameAbsorption (finalize b) (finalize c) := by
  have hws : (forRange 0 31 finalizePass b).ws = (forRange 0 31 finalizePass c).ws :=
    forRange_relates (fun b c : Block => b.ws = c.ws) 0 31 h fun q _ _ hq => (sameAbsorption_finalizePass hq q).ws
  rw [finalize_eq_last_pass, finalize_eq_last_pass]
  exact sameAbsorption_finalizePass hws 31

/-- Settles O15: the passes forget X, Y, Z and W, OUT ends equal to W, and the passes are those of the loop. -/
theorem finalizeReadsOnlyWorkingState : Obligations.FinalizeReadsOnlyWorkingState := by
  refine ⟨fun b c h => ?_, finalizes_finalize⟩
  obtain ⟨hws, hx, hy, hz, hw⟩ := sameAbsorption_finalize h
  exact ⟨hws, hx, hy, hz, hw, by rw [finalize_out, finalize_out, hw]⟩

/-! ### The all-zero working state (43_finalize.md R103) -/

/-- ws and the PRNG bytes are all 0. -/
structure AbsorptionZero (b : Block) : Prop where
  ws : wsClear b
  prng : PrngZero b

/-- Input 0 keeps the zero state: the byte XORed into ws is 0. -/
theorem AbsorptionZero.after_xorNext {b : Block} (h : AbsorptionZero b) (i : WsIndex) :
    AbsorptionZero (xorNext b i 0) := by
  refine ⟨fun j => ?_, h.prng.after_prngNext⟩
  rw [wsGet_xorNext, h.prng.prngByte_eq_zero, h.ws i, h.ws j]
  exact ite_self _

/-- The XORs of a pass keep the zero state. -/
theorem AbsorptionZero.after_finalRounds {b : Block} (h : AbsorptionZero b) (n : Nat) :
    AbsorptionZero (forRange 0 n finalRound b) :=
  forRange_keeps AbsorptionZero 0 n _ _ h fun _ _ _ _ hc => hc.after_xorNext _

/-- An all-zero ws reseeds the PRNG with (0, 0, 0, 0). -/
theorem finalSeed_of_wsClear {b : Block} (h : wsClear b) (q : Nat) : finalSeed q b = prngSeed b 0 0 0 0 := by
  simp only [finalSeed, h]

theorem absorptionZero_prngSeed {b : Block} (h : wsClear b) : AbsorptionZero (prngSeed b 0 0 0 0) :=
  ⟨h, prngZero_prngSeed b⟩

theorem absorptionZero_finalizePass {b : Block} (h : wsClear b) (q : Nat) : AbsorptionZero (finalizePass q b) := by
  rw [finalizePass_eq_forRange, finalSeed_of_wsClear h]
  exact (absorptionZero_prngSeed h).after_finalRounds 128

theorem wsClear_finalizePasses {b : Block} (h : wsClear b) (q : Nat) : wsClear (forRange 0 q finalizePass b) :=
  forRange_keeps wsClear 0 q _ _ h fun k _ _ _ hc => (absorptionZero_finalizePass hc k).ws

theorem absorptionZero_finalize {b : Block} (h : wsClear b) : AbsorptionZero (finalize b) := by
  rw [finalize_eq_last_pass]
  exact absorptionZero_finalizePass (wsClear_finalizePasses h 31) 31

/-- Settles O16: every pass starts from the zero state, and each of its XORs keeps it. -/
theorem finalizeKeepsZero : Obligations.FinalizeKeepsZero := by
  intro b h
  obtain ⟨hws, hx, hy, hz, hw⟩ := absorptionZero_finalize h
  refine ⟨fun q _ => ?_, hws, hx, hy, hz, hw, by rw [finalize_out, hw]⟩
  have hclear : wsClear (forRange 0 q finalizePass b) := wsClear_finalizePasses h q
  exact ⟨hclear, fun j _ => ((absorptionZero_prngSeed hclear).after_finalRounds j).prng.prngByte_eq_zero⟩

/-! ### Linearity over GF(2) (43_finalize.md R104) -/

/-- c's ws is the XOR of a's and b's byte by byte. -/
def WsXor (a b c : Block) : Prop := ∀ i, wsGet c i = wsGet a i ^^^ wsGet b i

/-- c is the XOR of a and b in ws and in the PRNG bytes. -/
structure AbsorptionXor (a b c : Block) : Prop where
  ws : WsXor a b c
  x : c.x = a.x ^^^ b.x
  y : c.y = a.y ^^^ b.y
  z : c.z = a.z ^^^ b.z
  w : c.w = a.w ^^^ b.w

theorem wsXor_clearWs (a b c : Block) : WsXor (clearWs a) (clearWs b) (clearWs c) := fun i => by
  simp only [wsGet_clearWs]
  rfl

/-- Three loops whose iterations keep a relation between their states keep it throughout. -/
theorem forRange_relates₃ {α : Type} (R : α → α → α → Prop) (lo n : Nat) {f g k : Nat → α → α} {a b c : α} (h : R a b c)
    (hstep : ∀ i a b c, R a b c → R (f i a) (g i b) (k i c)) :
    R (forRange lo n f a) (forRange lo n g b) (forRange lo n k c) := by
  induction n with
  | zero => exact h
  | succ n ih =>
    rw [forRange_succ, forRange_succ, forRange_succ]
    exact hstep _ _ _ _ ih

/-- The same index, and on c the XOR of the two input bytes, keep the relation: prng_next is linear. -/
theorem AbsorptionXor.after_xorNext {a b c : Block} (h : AbsorptionXor a b c) (i : WsIndex) (d e : Byte) :
    AbsorptionXor (xorNext a i d) (xorNext b i e) (xorNext c i (d ^^^ e)) := by
  have hbyte : prngByte c (d ^^^ e) = prngByte a d ^^^ prngByte b e := prngByte_xor h.x h.w d e
  refine { ws := fun j => ?_, x := h.y, y := h.z, z := h.w, w := hbyte }
  rw [wsGet_xorNext, wsGet_xorNext, wsGet_xorNext]
  split
  · rw [hbyte, h.ws i]
    ac_rfl
  · exact h.ws j

theorem AbsorptionXor.after_finalRound {a b c : Block} (h : AbsorptionXor a b c) (j : Nat) :
    AbsorptionXor (finalRound j a) (finalRound j b) (finalRound j c) :=
  h.after_xorNext (wsIndex j) 0 0

/-- Each reseed reads only ws. -/
theorem absorptionXor_finalSeed {a b c : Block} (h : WsXor a b c) (q : Nat) :
    AbsorptionXor (finalSeed q a) (finalSeed q b) (finalSeed q c) :=
  ⟨h, h _, h _, h _, h _⟩

theorem WsXor.after_finalizePass {a b c : Block} (h : WsXor a b c) (q : Nat) :
    WsXor (finalizePass q a) (finalizePass q b) (finalizePass q c) :=
  (forRange_relates₃ AbsorptionXor 0 128 (absorptionXor_finalSeed h q) fun j _ _ _ hr => hr.after_finalRound j).ws

theorem WsXor.after_finalize {a b c : Block} (h : WsXor a b c) : WsXor (finalize a) (finalize b) (finalize c) :=
  forRange_relates₃ WsXor 0 32 h fun q _ _ _ hr => hr.after_finalizePass q

/-- The input of a diffusion round is a byte of ws, so the round is linear. -/
theorem AbsorptionXor.after_diffuseRound {a b c : Block} (h : AbsorptionXor a b c) (pos0 : WsIndex) (r : Nat) :
    AbsorptionXor (diffuseRound pos0 r a) (diffuseRound pos0 r b) (diffuseRound pos0 r c) := by
  rw [diffuseRound, diffuseRound, diffuseRound, h.ws]
  exact h.after_xorNext _ _ _

theorem AbsorptionXor.after_diffuse {a b c : Block} (h : AbsorptionXor a b c) (pos0 : WsIndex) :
    AbsorptionXor (diffuse a pos0) (diffuse b pos0) (diffuse c pos0) := by
  rw [diffuse_eq_forRange, diffuse_eq_forRange, diffuse_eq_forRange]
  exact forRange_relates₃ AbsorptionXor 0 256 h fun r _ _ _ hr => hr.after_diffuseRound pos0 r

/-- The bytewise XOR of two messages of one length, byte by byte; past the end all three read 0. -/
theorem getD_zipWith_xor {p q : List Byte} (h : p.length = q.length) (k : Nat) :
    (List.zipWith (· ^^^ ·) p q).getD k 0 = p.getD k 0 ^^^ q.getD k 0 := by
  by_cases hk : k < p.length
  · have hkq : k < q.length := h ▸ hk
    simp [hk, hkq]
  · have hkq : ¬ k < q.length := h ▸ hk
    simp [hk, hkq]

section AbsorbXor
variable {p q : List Byte} (h : p.length = q.length) (a b c : Block)
include h

theorem absorptionXor_absorbSeeded :
    AbsorptionXor (absorbSeeded p a) (absorbSeeded q b) (absorbSeeded (List.zipWith (· ^^^ ·) p q) c) where
  ws := wsXor_clearWs a b c
  x := getD_zipWith_xor h 0
  y := getD_zipWith_xor h 1
  z := getD_zipWith_xor h 2
  w := getD_zipWith_xor h 3

theorem absorptionXor_absorbFolded (n : Nat) :
    AbsorptionXor (absorbFolded p n a).1 (absorbFolded q n b).1 (absorbFolded (List.zipWith (· ^^^ ·) p q) n c).1 := by
  induction n with
  | zero => exact absorptionXor_absorbSeeded h a b c
  | succ n ih =>
    rw [absorbFolded_succ, absorbFolded_succ, absorbFolded_succ]
    simp only [absorbIndex, absorbStep, getD_zipWith_xor h]
    exact ih.after_xorNext _ _ _

/-- The three diffusions start at one index, since the messages have one length. -/
theorem absorptionXor_absorb :
    AbsorptionXor (absorb p a) (absorb q b) (absorb (List.zipWith (· ^^^ ·) p q) c) := by
  have hlen : (List.zipWith (· ^^^ ·) p q).length = p.length := by rw [List.length_zipWith, ← h, Nat.min_self]
  rw [absorb_eq_diffuse, absorb_eq_diffuse, absorb_eq_diffuse, hlen, ← h, absorbFolded_pos, absorbFolded_pos,
    absorbFolded_pos]
  exact (absorptionXor_absorbFolded h a b c _).after_diffuse _

end AbsorbXor

/-- Settles O17: prng_next is linear and every input is linear in the state or the message, so each loop keeps the XOR. -/
theorem finalizeAndAbsorbAreLinear : Obligations.FinalizeAndAbsorbAreLinear :=
  ⟨fun _ _ _ h => WsXor.after_finalize h, fun _ _ a b c h _ _ => (absorptionXor_absorb h a b c).ws⟩

end Sys2Proof.Machine
end

section
/-! The closed form of the digest bytes and the digest as a function of the message alone (44_fold.md). -/

namespace Sys2Proof.Machine

/-! ### The running sum (44_fold.md R106) -/

/-- A digest byte is the running sum narrowed to a byte. -/
theorem digGet_fold_eq_ofNat (b : Block) (i : BitVec 5) :
    digGet (fold b) i = BitVec.ofNat 8 (runningSum b (i.toNat + 1)) :=
  BitVec.eq_of_toNat_eq (by rw [digGet_fold, BitVec.toNat_ofNat])

/-- The byte before a digest byte is the running sum up to its column, that column left out. -/
theorem digGet_fold_pred (b : Block) {i : BitVec 5} (hi : i ≠ 0) :
    digGet (fold b) (i - 1) = BitVec.ofNat 8 (runningSum b i.toNat) := by
  have hpred : (i - 1).toNat + 1 = i.toNat := by bv_omega
  rw [digGet_fold_eq_ofNat, hpred]

/-- Settles O18: the two running sums differ by one column. -/
theorem foldIsPrefixSum : Obligations.FoldIsPrefixSum := by
  refine fun b i => ⟨digGet_fold b i, fun hi => ?_⟩
  calc digGet (fold b) i - digGet (fold b) (i - 1)
      = BitVec.ofNat 8 (runningSum b i.toNat + columnSum b i.toNat) - BitVec.ofNat 8 (runningSum b i.toNat) := by
        rw [digGet_fold_eq_ofNat, digGet_fold_pred b hi, runningSum_succ]
    _ = BitVec.ofNat 8 (columnSum b i.toNat) := by rw [BitVec.ofNat_add, add_sub_cancel_left]

/-! ### The message alone (44_fold.md R108) -/

/-- Clearing ws and seeding all four PRNG bytes forgets the block before. -/
theorem sameAbsorption_absorbSeeded (pm : List Byte) (b c : Block) :
    SameAbsorption (absorbSeeded pm b) (absorbSeeded pm c) :=
  ⟨rfl, rfl, rfl, rfl, rfl⟩

theorem sameAbsorption_absorbFolded (pm : List Byte) (b c : Block) (n : Nat) :
    SameAbsorption (absorbFolded pm n b).1 (absorbFolded pm n c).1 := by
  induction n with
  | zero => exact sameAbsorption_absorbSeeded pm b c
  | succ n ih =>
    rw [absorbFolded_succ, absorbFolded_succ]
    exact ih.after_xorNext _ _

theorem sameAbsorption_absorb (pm : List Byte) (b c : Block) : SameAbsorption (absorb pm b) (absorb pm c) := by
  rw [absorb_eq_diffuse, absorb_eq_diffuse, absorbFolded_pos, absorbFolded_pos]
  exact (sameAbsorption_absorbFolded pm b c _).after_diffuse _

/-- fold writes every byte of dig from ws, so the digest before does not count. -/
theorem fold_dig_congr {b c : Block} (h : b.ws = c.ws) : (fold b).dig = (fold c).dig :=
  dig_ext fun i => by rw [digGet_fold_eq_ofNat, digGet_fold_eq_ofNat, runningSum_congr h]

/-- Settles O19: absorb forgets the block before, and finalize and fold read only ws. -/
theorem hashDependsOnTheMessageAlone : Obligations.HashDependsOnTheMessageAlone := fun b m =>
  fold_dig_congr (sameAbsorption_finalize (sameAbsorption_absorb (pad m) b Block.reset).ws).ws

end Sys2Proof.Machine
end

section
/-! What each command does where it is legal, what it leaves unchanged in every phase, and the core step as the meaning of
the decoded command (45_commands.md). -/

namespace Sys2Proof.Machine

/-! ### What a command can do (45_commands.md R110, 60_exceptions.md R124, R127) -/

/-- A legal command has its effect and touches nothing but the block. -/
theorem exec_of_legal {i : Instr} {s : State} (h : legality i s.block.phase = .ok) :
    exec i s = .next (s.mapBlock (commandEffect i)) := by
  rw [exec_eq_perform, perform, h]

/-- A change of the block leaves the surroundings alone. -/
theorem sameHost_mapBlock (f : Block → Block) (s : State) : SameHost s (s.mapBlock f) := ⟨rfl, rfl, rfl⟩

/-- What the meaning of the command i can do to the block. -/
inductive CommandOutcome (i : Instr) (b c : Block) : Prop where
  | runs (hi : legality i b.phase = .ok) (h : c = commandEffect i b)
  | outOfSequence (hi : legality i b.phase = .illegal) (h : c = enterError .illegalSequence (encode i) b)
  | discarded (hi : legality i b.phase = .discarded) (h : c = b)

/-- The meaning of a command touches nothing but the block. -/
theorem exec_outcome {i : Instr} {s t : State} (h : exec i s = .next t) :
    SameHost s t ∧ CommandOutcome i s.block t.block := by
  rw [exec_eq_perform] at h
  obtain ⟨hi, hp⟩ | ⟨hi, hp⟩ | ⟨hi, hp⟩ := perform_cases i (commandEffect i) s <;> rw [hp] at h <;> cases h
  · exact ⟨sameHost_mapBlock _ s, .runs hi rfl⟩
  · exact ⟨sameHost_mapBlock _ s, .outOfSequence hi rfl⟩
  · exact ⟨⟨rfl, rfl, rfl⟩, .discarded hi rfl⟩

/-- No command writes ARG or LATCH, whatever the phase. -/
theorem CommandOutcome.arg_latch {i : Instr} {b c : Block} (h : CommandOutcome i b c) :
    c.arg = b.arg ∧ c.latch = b.latch := by
  cases h with
  | runs _ h => exact h ▸ commandEffect_arg_latch i b
  | outOfSequence _ h => exact h ▸ ⟨rfl, rfl⟩
  | discarded _ h => exact h ▸ ⟨rfl, rfl⟩

/-- A command that is not legal changes at most PHASE, ERRCODE and ERRCMD. -/
theorem CommandOutcome.frame_of_not_legal {i : Instr} {b c : Block} (h : CommandOutcome i b c)
    (hi : legality i b.phase ≠ .ok) :
    c = { b with phase := c.phase, errCode := c.errCode, errCmd := c.errCmd } := by
  cases h with
  | runs hok _ => exact absurd hok hi
  | outOfSequence _ h => exact h ▸ rfl
  | discarded _ h => exact h ▸ rfl

/-! ### START (45_commands.md R112) -/

/-- Settles O20: START is legal in every phase. -/
theorem startBeginsComputation : Obligations.StartBeginsComputation := fun s =>
  exec_of_legal (legality_start s.block.phase)

/-- Settles O26. -/
theorem startFrame : Obligations.StartFrame := fun s t h => by
  obtain ⟨hhost, hout⟩ := exec_outcome h
  exact ⟨hhost, hout.arg_latch⟩

/-! ### BYTE (45_commands.md R111, R113) -/

/-- BYTE in ABSORBING takes one byte. -/
theorem exec_byte_of_absorbing {s : State} (h : s.block.phase = .absorbing) (d : Byte) :
    exec (.byte d) s = .next (s.mapBlock (absorbByte · d)) :=
  exec_of_legal (by rw [h]; rfl)

/-- Settles O21, by the place COUNT gives the byte. -/
theorem byteFillsTheSeed : Obligations.ByteFillsTheSeed := by
  intro d s hp hs
  have hexec {c : Block} (hc : absorbByte s.block d = c) : exec (.byte d) s = .next { s with block := c } :=
    hc ▸ exec_byte_of_absorbing hp d
  obtain ⟨-, hk, h⟩ | ⟨-, hk, h⟩ | ⟨-, hk, h⟩ | ⟨-, hk, h⟩ | ⟨hseeded, -⟩ := absorbByte_cases s.block d
  · exact ⟨fun _ => hexec h, by omega, by omega, by omega⟩
  · exact ⟨by omega, fun _ => hexec h, by omega, by omega⟩
  · exact ⟨by omega, by omega, fun _ => hexec h, by omega⟩
  · exact ⟨by omega, by omega, by omega, fun _ => hexec h⟩
  · simp [hs] at hseeded

/-- Settles O22: the byte is folded by the one write of the absorber. -/
theorem byteFoldsIntoWorkingState : Obligations.ByteFoldsIntoWorkingState := by
  intro d s hp hs p n
  obtain ⟨hblock, hself, hother⟩ := xorsNext_xorNext p d (setPos s.block p)
  have hfold : absorbByte s.block d = bumpCount (xorNext (setPos s.block p) p d) := by
    rw [absorbByte_of_seeded hs, wsIndex_mod]
  refine ⟨_, exec_byte_of_absorbing hp d, ?_, ?_, fun j hj => ?_⟩
  · rw [State.mapBlock, hfold, hblock]
    rfl
  · exact (congrArg (wsGet · p) hfold).trans hself
  · exact (congrArg (wsGet · j) hfold).trans (hother j hj)

/-- A byte into the seed leaves ws, OUT and POS alone. -/
theorem absorbByte_frame_of_unseeded {b : Block} (h : b.seeded = false) (v : Byte) :
    (absorbByte b v).ws = b.ws ∧ (absorbByte b v).out = b.out ∧ (absorbByte b v).pos = b.pos := by
  obtain ⟨-, -, hc⟩ | ⟨-, -, hc⟩ | ⟨-, -, hc⟩ | ⟨-, -, hc⟩ | ⟨hs, -⟩ := absorbByte_cases b v
  case inr.inr.inr.inr => simp [h] at hs
  all_goals exact hc ▸ ⟨rfl, rfl, rfl⟩

/-- A folded byte writes ws at COUNT mod 128 only. -/
theorem wsGet_absorbByte_of_ne {b : Block} (h : b.seeded = true) (v : Byte) {j : WsIndex}
    (hj : j ≠ wsIndex b.count.toNat) : wsGet (absorbByte b v) j = wsGet b j := by
  rw [absorbByte_of_seeded h]
  exact (wsGet_xorNext _ _ j v).trans (if_neg hj)

theorem legality_byte_ne_ok {d : Byte} {p : Phase} (h : p ≠ .absorbing) : legality (.byte d) p ≠ .ok :=
  fun hok => h (phase_of_legality_byte hok)

theorem legality_endMessage_ne_ok {p : Phase} (h : p ≠ .absorbing) : legality .endMessage p ≠ .ok :=
  fun hok => h (phase_of_legality_endMessage hok)

/-- Settles O27: in ABSORBING the frame of `absorbByte`, elsewhere that of a command that is not legal. -/
theorem byteFrame : Obligations.ByteFrame := by
  intro d s t h
  obtain ⟨hhost, hout⟩ := exec_outcome h
  obtain ⟨harg, hlatch⟩ := hout.arg_latch
  refine ⟨hhost, harg, hlatch, ?_⟩
  by_cases hp : s.block.phase = .absorbing
  · rw [exec_byte_of_absorbing hp] at h
    cases h
    obtain ⟨hdig, hphase, hcode, hcmd, -, -⟩ := absorbByte_frame s.block d
    refine ⟨digGet_congr hdig, fun _ hs a ha j hj => wsGet_absorbByte_of_ne hs d (ha ▸ hj), fun hq => ?_,
      fun hq => absurd hp hq, fun _ => ⟨hphase.trans hp, hcode, hcmd⟩⟩
    obtain ⟨hws, hrest⟩ := absorbByte_frame_of_unseeded (hq.resolve_left (not_not_intro hp)) d
    exact ⟨wsGet_congr hws, hrest⟩
  · have hframe := hout.frame_of_not_legal (legality_byte_ne_ok hp)
    rw [hframe]
    exact ⟨fun _ => rfl, fun hq => absurd hq hp, fun _ => ⟨fun _ => rfl, rfl, rfl⟩,
      fun _ => ⟨rfl, rfl, rfl, rfl, rfl, rfl⟩, fun hq => absurd hq hp⟩

/-! ### END (45_commands.md R114) -/

/-- END in ABSORBING. -/
theorem exec_endMessage_of_absorbing {s : State} (h : s.block.phase = .absorbing) :
    exec .endMessage s = .next (s.mapBlock endBlock) :=
  exec_of_legal (by rw [h]; rfl)

/-- fold leaves ws, the PRNG bytes and OUT alone (44_fold.md R105). -/
theorem sameAbsorption_fold (b : Block) : SameAbsorption (fold b) b := by
  obtain ⟨v, hv⟩ := fold_frame b
  rw [hv]
  exact ⟨rfl, rfl, rfl, rfl, rfl⟩

theorem fold_out (b : Block) : (fold b).out = b.out := by
  obtain ⟨v, hv⟩ := fold_frame b
  rw [hv]

theorem SameAbsorption.after_setPhase {b c : Block} (h : SameAbsorption b c) (p : Phase) :
    SameAbsorption (setPhase b p) c :=
  ⟨h.ws, h.x, h.y, h.z, h.w⟩

/-- END leaves ws and the PRNG bytes as the finalization of the padded, diffused block left them. -/
theorem sameAbsorption_endBlock (b : Block) :
    SameAbsorption (endBlock b) (finalize (diffuse (padBlock b) (padBlock b).pos)) := by
  rw [endBlock_eq, digestBlock]
  exact (sameAbsorption_fold _).after_setPhase .done

/-- The last prng_next of END is the last of finalization. -/
theorem endBlock_out (b : Block) : (endBlock b).out = (endBlock b).w := by
  rw [endBlock_eq, setPhase_out, setPhase_w, digestBlock, fold_out, (sameAbsorption_fold _).w, finalize_out]

/-- END keeps ERRCODE and ERRCMD. -/
theorem endBlock_errors (b : Block) : (endBlock b).errCode = b.errCode ∧ (endBlock b).errCmd = b.errCmd := by
  obtain ⟨-, -, -, hcode, hcmd⟩ := endBlock_frame b
  rw [hcode, hcmd]
  exact padBlock_keeps (fun c => c.errCode = b.errCode ∧ c.errCmd = b.errCmd) ⟨rfl, rfl⟩ fun c v ⟨hc, hm⟩ => by
    obtain ⟨-, -, hcode, hcmd, -, -⟩ := absorbByte_frame c v
    exact ⟨hcode.trans hc, hcmd.trans hm⟩

/-- END leaves COUNT at the next multiple of four; 2^32 is one. -/
theorem endBlock_count_mod (b : Block) : (endBlock b).count.toNat % 4 = 0 := by
  obtain ⟨hcount, -⟩ := endBlock_frame b
  rw [hcount, padBlock_count, BitVec.toNat_add, BitVec.toNat_ofNat]
  omega

/-- Settles O23: each element by the stage of END that writes it last; the statement's padded block is `padBlock`'s. -/
theorem endProducesTheDigest : Obligations.EndProducesTheDigest := by
  intro s hp p padded
  have hpad : padBlock s.block = padded := padBlock_eq_takeBytes s.block
  clear_value padded
  subst hpad
  intro diffused final
  obtain ⟨hws, hx, hy, hz, hw⟩ : SameAbsorption (endBlock s.block) final := sameAbsorption_endBlock s.block
  obtain ⟨hcount, hpos, hseeded, -, -⟩ := endBlock_frame s.block
  obtain ⟨hcode, hcmd⟩ := endBlock_errors s.block
  exact ⟨_, exec_endMessage_of_absorbing hp, sameHost_mapBlock _ s, diffuses_diffuse _ _, finalizes_finalize _,
    endBlock_phase _, hws, hx, hy, hz, hw, endBlock_out _, digGet_endBlock _, hcount.trans (padBlock_count _),
    endBlock_count_mod _, hpos, hseeded, fun hc => hseeded.trans (hc.after_padBlock_seeded hp), hcode, hcmd,
    endBlock_arg_latch _⟩

/-- Settles O28: in ABSORBING the frame of `endBlock`, elsewhere that of a command that is not legal. -/
theorem endFrame : Obligations.EndFrame := by
  intro s t h
  obtain ⟨hhost, hout⟩ := exec_outcome h
  obtain ⟨harg, hlatch⟩ := hout.arg_latch
  refine ⟨hhost, harg, hlatch, fun hp => ?_, fun hp => ?_⟩
  · have hframe := hout.frame_of_not_legal (legality_endMessage_ne_ok hp)
    have hws : t.block.ws = s.block.ws := (congrArg Block.ws hframe :)
    have hdig : t.block.dig = s.block.dig := (congrArg Block.dig hframe :)
    exact ⟨hframe, wsGet_congr hws, digGet_congr hdig⟩
  · rw [exec_endMessage_of_absorbing hp] at h
    cases h
    exact endBlock_errors s.block

/-! ### SEED and NEXT (45_commands.md R115, R116) -/

/-- SEED and NEXT are legal in IDLE and DONE only. -/
theorem legality_seed_next {i : Instr} (h : i = .seed ∨ ∃ d, i = .next d) (p : Phase) :
    legality i p = .ok ↔ p = .idle ∨ p = .done := by
  obtain rfl | ⟨d, rfl⟩ := h <;> cases p <;> simp [legality]

theorem phase_of_illegal_seed_next {i : Instr} (h : i = .seed ∨ ∃ d, i = .next d) {p : Phase}
    (hi : legality i p = .illegal) : p = .absorbing := by
  obtain rfl | ⟨d, rfl⟩ := h <;> cases p <;> simp_all [legality]

/-- Settles O24. -/
theorem seedLoadsArg : Obligations.SeedLoadsArg := fun _ hp =>
  exec_of_legal ((legality_seed_next (.inl rfl) _).mpr hp)

/-- Settles O25: the new byte is the formula of 40_prng.md R85. -/
theorem nextRunsThePrngOnce : Obligations.NextRunsThePrngOnce := by
  intro d s hp
  rw [exec_of_legal ((legality_seed_next (.inr ⟨d, rfl⟩) _).mpr hp), ← prngByte_eq_nextLaw]
  rfl

/-- The effects of SEED and NEXT are on the PRNG bytes and OUT, and SEED's not on OUT. -/
theorem commandEffect_seed_next_frame {i : Instr} (h : i = .seed ∨ ∃ d, i = .next d) (b : Block) :
    ∃ x y z w out, commandEffect i b = { b with x := x, y := y, z := z, w := w, out := out } ∧
      (i = .seed → out = b.out) := by
  obtain rfl | ⟨d, rfl⟩ := h
  · exact ⟨_, _, _, _, b.out, rfl, fun _ => rfl⟩
  · exact ⟨_, _, _, _, _, rfl, by simp⟩

/-- Settles O29: the effect where the command is legal, and elsewhere the error entry or nothing. -/
theorem seedAndNextFrame : Obligations.SeedAndNextFrame := by
  intro i s t hi h
  obtain ⟨hhost, hout⟩ := exec_outcome h
  refine ⟨hhost, ?_⟩
  cases hout with
  | runs hok h =>
    obtain ⟨x, y, z, w, out, hframe, hkeep⟩ := commandEffect_seed_next_frame hi s.block
    rw [h, hframe]
    refine ⟨fun _ => rfl, fun _ => rfl, rfl, rfl, rfl, rfl, rfl, hkeep, fun _ => ⟨rfl, rfl, rfl⟩, fun hp => ?_⟩
    obtain hq | hq := (legality_seed_next hi _).mp hok <;> simp [hq] at hp
  | outOfSequence hbad h =>
    have hp : s.block.phase = .absorbing := phase_of_illegal_seed_next hi hbad
    rw [h]
    exact ⟨fun _ => rfl, fun _ => rfl, rfl, rfl, rfl, rfl, rfl, fun _ => rfl, fun hq => absurd hp hq,
      fun _ => ⟨rfl, rfl, rfl, rfl, rfl⟩⟩
  | discarded _ h =>
    rw [h]
    exact ⟨fun _ => rfl, fun _ => rfl, rfl, rfl, rfl, rfl, rfl, fun _ => rfl, fun _ => ⟨rfl, rfl, rfl⟩,
      fun _ => ⟨rfl, rfl, rfl, rfl, rfl⟩⟩

/-! ### The core step on a word that decodes (45_commands.md R110) -/

/-- A command other than START is discarded in ERROR (60_exceptions.md R127). -/
theorem legality_error {i : Instr} (h : i ≠ .start) : legality i .error = .discarded := by
  cases i <;> simp_all [legality]

/-- The core step is the meaning of the decoded command: the words that R127 discards are those whose commands
are discarded. -/
theorem coreStep_of_decode {w : Word} {i : Instr} (hd : decode w = .ok i) (s : State) :
    coreStep w s = exec i (s.mapBlock emptyLatch) := by
  obtain ⟨hp, hw, hstep⟩ | ⟨e, he, -⟩ | ⟨j, hj, hstep⟩ := coreStep_cases w s
  · have hi : i ≠ .start := by
      rintro rfl
      exact hw (eq_startWord_of_decode hd)
    rw [hstep, exec_eq_perform, perform, mapBlock_block, emptyLatch_phase, hp, legality_error hi]
  · simp [hd] at he
  · obtain rfl : i = j := by simpa [hd] using hj
    exact hstep

/-- A step that executes w is the core step on w, with the turn taken. -/
theorem step_eq_coreStep {s : State} {w : Word} (h : Executes s w) : step s = coreStep w (takeTurn s) :=
  (step_of_executes h).trans (coreStep_eq w _).symm

/-- Settles O34. -/
theorem stepRunsTheDecodedCommand : Obligations.StepRunsTheDecodedCommand := fun s _ _ hx hd =>
  (step_eq_coreStep hx).trans (coreStep_of_decode hd (takeTurn s))

end Sys2Proof.Machine
end

section
/-! The commands of a message one after the other: what they leave is hash(m), whatever the block before (45_commands.md
R117, R118). -/

namespace Sys2Proof.Machine

/-! ### The block after a message's commands -/

/-- The block after START, the bytes m and END. -/
def messageBlock (m : List Byte) (b : Block) : Block := endBlock (takeBytes m (startBlock b))

theorem takeBytes_append (m n : List Byte) (b : Block) : takeBytes (m ++ n) b = takeBytes n (takeBytes m b) :=
  List.foldl_append

/-- Taking bytes never touches PHASE, ERRCODE, ERRCMD, ARG or LATCH. -/
theorem takeBytes_frame (m : List Byte) (b : Block) :
    (takeBytes m b).phase = b.phase ∧ (takeBytes m b).errCode = b.errCode ∧ (takeBytes m b).errCmd = b.errCmd ∧
      (takeBytes m b).arg = b.arg ∧ (takeBytes m b).latch = b.latch := by
  induction m using List.reverseRecOn with
  | nil => exact ⟨rfl, rfl, rfl, rfl, rfl⟩
  | append_singleton m v ih =>
    rw [takeBytes_concat]
    obtain ⟨-, hphase, hcode, hcmd, harg, hlatch⟩ := absorbByte_frame (takeBytes m b) v
    rwa [hphase, hcode, hcmd, harg, hlatch]

theorem takeBytes_startBlock_phase (m : List Byte) (b : Block) : (takeBytes m (startBlock b)).phase = .absorbing :=
  (takeBytes_frame m (startBlock b)).1

/-- After START and the bytes m, END's padding completes pad(m) (41_padding.md R91). -/
theorem padBlock_takeBytes_startBlock (m : List Byte) (b : Block) :
    padBlock (takeBytes m (startBlock b)) = takeBytes (pad m) (startBlock b) := by
  obtain ⟨-, hpad⟩ := endAppendsThePadBytes b m
  rw [hpad, pad_drop, ← takeBytes_append, pad_eq_append]

theorem SameAbsorption.symm {b c : Block} (h : SameAbsorption b c) : SameAbsorption c b :=
  ⟨h.ws.symm, h.x.symm, h.y.symm, h.z.symm, h.w.symm⟩

theorem SameAbsorption.trans {b c d : Block} (h : SameAbsorption b c) (h' : SameAbsorption c d) : SameAbsorption b d :=
  ⟨h.ws.trans h'.ws, h.x.trans h'.x, h.y.trans h'.y, h.z.trans h'.z, h.w.trans h'.w⟩

/-- The commands of a message leave ws and the PRNG bytes as finalization of the absorbed message does. -/
theorem sameAbsorption_messageBlock (m : List Byte) (b c : Block) :
    SameAbsorption (messageBlock m b) (finalize (absorb (pad m) c)) := by
  obtain ⟨_, -, -, -, -, hlen, -⟩ := padShape m
  have hend := sameAbsorption_endBlock (takeBytes m (startBlock b))
  rw [padBlock_takeBytes_startBlock] at hend
  have hfinal := sameAbsorption_finalize (sameAbsorption_diffuse_takeBytes b c hlen).ws
  exact hend.trans hfinal

/-- END's digest is the fold of the ws it leaves. -/
theorem endBlock_dig (b : Block) : (endBlock b).dig = (fold (endBlock b)).dig :=
  dig_ext fun i => BitVec.eq_of_toNat_eq ((digGet_endBlock b i).trans (digGet_fold _ i).symm)

/-- The commands of a message leave what 45_commands.md R117 lists. -/
theorem hashDone_messageBlock (m : List Byte) (b : Block) : HashDone m (messageBlock m b) := by
  obtain ⟨_, -, -, -, -, hlen, -⟩ := padShape m
  obtain ⟨-, hcode, hcmd, -, -⟩ := takeBytes_frame m (startBlock b)
  obtain ⟨hendCode, hendCmd⟩ := endBlock_errors (takeBytes m (startBlock b))
  obtain ⟨hcount, hpos, hseeded, -, -⟩ := endBlock_frame (takeBytes m (startBlock b))
  rw [padBlock_takeBytes_startBlock] at hcount hpos hseeded
  have hws := (sameAbsorption_messageBlock m b Block.reset).ws
  constructor
  case phase => exact endBlock_phase _
  case errCode => exact hendCode.trans hcode
  case errCmd => exact hendCmd.trans hcmd
  case dig => exact (endBlock_dig _).trans (fold_dig_congr hws)
  case ws => exact hws.trans (fold_ws _).symm
  case count => exact hcount.trans ((takeBytes_count _ _).trans (BitVec.zero_add _))
  case seeded => exact hseeded.trans ((takeBytes_startBlock_seeded b (pad m)).trans (decide_eq_true hlen))
  case pos => exact hpos.trans (takeBytes_startBlock_pos b hlen)

/-! ### The meanings in order -/

theorem mapBlock_mapBlock (f g : Block → Block) (s : State) :
    (s.mapBlock f).mapBlock g = s.mapBlock fun b => g (f b) := rfl

theorem execAll_cons_of_legal {i : Instr} {s : State} (h : legality i s.block.phase = .ok) (is : List Instr) :
    execAll (i :: is) s = execAll is (s.mapBlock (commandEffect i)) := by
  rw [execAll, exec_of_legal h]

/-- The BYTEs of a message in ABSORBING. -/
theorem execAll_bytes {s : State} (h : s.block.phase = .absorbing) (m : List Byte) (is : List Instr) :
    execAll (m.map (.byte ·) ++ is) s = execAll is (s.mapBlock (takeBytes m)) := by
  induction m generalizing s with
  | nil => rfl
  | cons v m ih =>
    have hlegal : legality (.byte v) s.block.phase = .ok := by rw [h]; rfl
    rw [List.map_cons, List.cons_append, execAll_cons_of_legal hlegal]
    exact ih ((absorbByte_phase s.block v).trans h)

/-- From every state the commands of a message complete. -/
theorem execAll_messageCommands (m : List Byte) (s : State) :
    execAll (messageCommands m) s = .next (s.mapBlock (messageBlock m)) := by
  have hlegal : legality .endMessage (takeBytes m (startBlock s.block)).phase = .ok := by
    rw [takeBytes_startBlock_phase]
    rfl
  rw [messageCommands, List.cons_append, execAll_cons_of_legal (legality_start _), execAll_bytes rfl,
    execAll_cons_of_legal hlegal, execAll, mapBlock_mapBlock, mapBlock_mapBlock]
  simp only [commandEffect]
  rfl

theorem messageBlock_arg_latch (m : List Byte) (b : Block) :
    (messageBlock m b).arg = b.arg ∧ (messageBlock m b).latch = b.latch := by
  obtain ⟨-, -, -, harg, hlatch⟩ := takeBytes_frame m (startBlock b)
  obtain ⟨hendArg, hendLatch⟩ := endBlock_arg_latch (takeBytes m (startBlock b))
  exact ⟨hendArg.trans harg, hendLatch.trans hlatch⟩

/-- Settles O53: the meanings in order, and what R117 lists of the block they leave. -/
theorem messageCommandsComputeHash : Obligations.MessageCommandsComputeHash := by
  intro s m
  obtain ⟨harg, hlatch⟩ := messageBlock_arg_latch m s.block
  have hdone := hashDone_messageBlock m s.block
  exact ⟨_, execAll_messageCommands m s, hdone.phase, hdone.dig, hdone.errCode, harg, hlatch, sameHost_mapBlock _ s⟩

/-! ### Nothing before START (45_commands.md R118) -/

/-- What R117 lists, the PRNG bytes and OUT are the whole block but ARG and LATCH. -/
theorem HashDone.eq {m : List Byte} {b c : Block} (hb : HashDone m b) (hc : HashDone m c) (h : SameAbsorption b c)
    (hout : b.out = c.out) : b = { c with arg := b.arg, latch := b.latch } := by
  have hdig := hb.dig.trans hc.dig.symm
  have hcount := hb.count.trans hc.count.symm
  have hpos := hb.pos.trans hc.pos.symm
  have hseeded := hb.seeded.trans hc.seeded.symm
  have hphase := hb.phase.trans hc.phase.symm
  have hcode := hb.errCode.trans hc.errCode.symm
  have hcmd := hb.errCmd.trans hc.errCmd.symm
  obtain ⟨hws, hx, hy, hz, hw⟩ := h
  cases b
  simp_all

theorem messageBlock_eq (m : List Byte) (b c : Block) :
    messageBlock m b =
      { messageBlock m c with arg := (messageBlock m b).arg, latch := (messageBlock m b).latch } := by
  have hsame : SameAbsorption (messageBlock m b) (messageBlock m c) :=
    (sameAbsorption_messageBlock m b b).trans (sameAbsorption_messageBlock m c b).symm
  have hout : (messageBlock m b).out = (messageBlock m c).out := by
    rw [messageBlock, endBlock_out, messageBlock, endBlock_out]
    exact hsame.w
  exact (hashDone_messageBlock m b).eq (hashDone_messageBlock m c) hsame hout

/-- Settles O54: both blocks are the message's, up to ARG and LATCH. -/
theorem nothingBeforeStartReachesTheDigest : Obligations.NothingBeforeStartReachesTheDigest := by
  intro s₁ s₂ t₁ t₂ m h₁ h₂
  rw [execAll_messageCommands] at h₁ h₂
  cases h₁
  cases h₂
  exact ⟨(hashDone_messageBlock m _).dig.trans (hashDone_messageBlock m _).dig.symm, messageBlock_eq m _ _⟩

end Sys2Proof.Machine
end

section
/-! A program that writes a message's commands to CMD, with other inputs between and after: how far it is at each step, and
the first core step of END (45_commands.md R117). -/

namespace Sys2Proof.Machine

/-! ### How far a message is -/

/-- The commands `todo` of a message m are still to run on the block b: all of them, or those from a byte on, after START
and the bytes before it. -/
inductive MessageRun (m : List Byte) (todo : List Instr) (b : Block) : Prop where
  | unstarted (htodo : todo = messageCommands m)
  | absorbing (pre post : List Byte) (b₀ : Block) (hm : pre ++ post = m)
      (htodo : todo = post.map (.byte ·) ++ [.endMessage]) (hb : b = takeBytes pre (startBlock b₀))

/-- A byte is taken whatever ARG and LATCH hold. -/
theorem absorbByte_of_host (a : Word) (l : Option Word) (b : Block) (v : Byte) :
    absorbByte { b with arg := a, latch := l } v = { absorbByte b v with arg := a, latch := l } := by
  simp only [absorbByte, seedByte]
  split_ifs <;> rfl

theorem takeBytes_of_host (a : Word) (l : Option Word) (m : List Byte) (b : Block) :
    takeBytes m { b with arg := a, latch := l } = { takeBytes m b with arg := a, latch := l } := by
  induction m using List.reverseRecOn with
  | nil => rfl
  | append_singleton m v ih => rw [takeBytes_concat, takeBytes_concat, ih, absorbByte_of_host]

/-- What changes ARG and LATCH alone leaves a message where it is. -/
theorem MessageRun.of_host {m : List Byte} {todo : List Instr} {b c : Block} (h : MessageRun m todo b)
    (hc : c = { b with arg := c.arg, latch := c.latch }) : MessageRun m todo c := by
  cases h with
  | unstarted htodo => exact .unstarted htodo
  | absorbing pre post b₀ hm htodo hb =>
    refine .absorbing pre post { b₀ with arg := c.arg, latch := c.latch } hm htodo ?_
    rw [hc, hb]
    exact (takeBytes_of_host c.arg c.latch pre (startBlock b₀)).symm

theorem MessageRun.ne_nil {m : List Byte} {todo : List Instr} {b : Block} (h : MessageRun m todo b) : todo ≠ [] := by
  cases h with
  | unstarted htodo => simp [htodo, messageCommands]
  | absorbing _ _ _ _ htodo _ => simp [htodo]

/-- What the next command of a message is, and what it does: it is legal, does not enter ERROR, and either is END, the
last one, and leaves the hash, or it brings the message one command on. -/
structure MessageNext (m : List Byte) (i : Instr) (todo : List Instr) (b : Block) : Prop where
  legal : legality i b.phase = .ok
  phase : (commandEffect i b).phase ≠ .error
  on : i ≠ .endMessage → MessageRun m todo (commandEffect i b)
  last : i = .endMessage → todo = [] ∧ HashDone m (commandEffect i b)

theorem MessageRun.next {m : List Byte} {i : Instr} {todo : List Instr} {b : Block} (h : MessageRun m (i :: todo) b) :
    MessageNext m i todo b := by
  cases h with
  | unstarted htodo =>
    obtain ⟨rfl, rfl⟩ := List.cons.inj htodo
    exact ⟨legality_start _, by simp [commandEffect], fun _ => .absorbing [] m b rfl rfl rfl, by simp⟩
  | absorbing pre post b₀ hm htodo hb =>
    have hp : b.phase = .absorbing := hb ▸ takeBytes_startBlock_phase pre b₀
    cases post with
    | nil =>
      obtain ⟨rfl, rfl⟩ := List.cons.inj htodo
      rw [List.append_nil] at hm
      subst hm hb
      exact ⟨by rw [hp]; rfl, by simp [commandEffect], by simp, fun _ => ⟨rfl, hashDone_messageBlock pre b₀⟩⟩
    | cons v post =>
      obtain ⟨rfl, rfl⟩ := List.cons.inj htodo
      refine ⟨by rw [hp]; rfl, by simp [commandEffect, hp], fun _ => ?_, by simp⟩
      refine .absorbing (pre ++ [v]) post b₀ (by simpa using hm) rfl ?_
      rw [takeBytes_concat, ← hb]
      rfl

/-- The core step on the word of the message's next command runs it, with LATCH emptied. -/
theorem MessageNext.coreBlock_eq {m : List Byte} {i : Instr} {todo : List Instr} {b : Block}
    (h : MessageNext m i todo (emptyLatch b)) : coreBlock (encode i) b = commandEffect i (emptyLatch b) :=
  coreBlock_of_legal (decode_encode i) h.legal

/-! ### The writes to CMD alone, two steps for each command -/

/-- The writes to CMD of a list of commands. -/
def commandWrites (is : List Instr) : List Input := is.map fun i => writeCmd (encode i)

theorem byteInput_eq (v : Byte) : byteInput v = writeCmd (encode (.byte v)) := by
  obtain ⟨-, -, -, hbyte, -⟩ := statementsWriteTheirCommands
  exact List.singleton_inj.mp (hbyte v)

/-- The program START, MSG m, END writes the commands of m (30_encoding.md R79, R80). -/
theorem programInputs_message (m : List Byte) :
    programInputs [.start, .msg m, .endMessage] = commandWrites (messageCommands m) := by
  calc programInputs [.start, .msg m, .endMessage]
    _ = writeCmd (encode .start) :: (m.map byteInput ++ [writeCmd (encode .endMessage)]) := rfl
    _ = commandWrites (messageCommands m) := by
      simp [commandWrites, messageCommands, byteInput_eq, Function.comp_def]

theorem hostMove_of_stall {s : State} {a : Access} {rest : List Input} (hi : s.inputs = .access a :: rest)
    (hb : busAccess s.block a = none) : hostMove s = none := by
  simp [hostMove, hi, hb]

/-- While LATCH is full the next write to CMD stalls. -/
theorem hostMove_commandWrites {s : State} {is : List Instr} (hl : s.block.latch ≠ none)
    (hi : s.inputs = commandWrites is) : hostMove s = none := by
  cases is with
  | nil => simp [hostMove, hi, commandWrites]
  | cons i is => exact hostMove_of_stall hi ((busAccess_write_cmd s.block (encode i)).trans (if_pos (busy_of_full hl)))

/-- A write to CMD with only writes to CMD after it: one step latches the word, the next one runs it. -/
theorem run_two_of_commandWrites {s : State} {i : Instr} {is : List Instr} (hl : s.block.latch = none)
    (hi : s.inputs = commandWrites (i :: is)) (k : Nat) :
    ∃ t, run (k + 2) s = run k t ∧ t.inputs = commandWrites is ∧
      t.block = coreBlock (encode i) (fillLatch s.block (encode i)) := by
  have hlatch := step_writeCmd hl hi
  have hx : Executes { s with
      block := fillLatch s.block (encode i), inputs := commandWrites is, responses := s.responses ++ [.written] }
      (encode i) :=
    ⟨rfl, .inr (hostMove_commandWrites (by simp) rfl)⟩
  exact ⟨_, (run_succ_of_step hlatch).trans (run_succ_of_step (step_of_executes hx)), rfl, rfl⟩

theorem run_commandWrites {m : List Byte} {todo : List Instr} {s : State} (h : MessageRun m todo s.block)
    (hl : s.block.latch = none) (hi : s.inputs = commandWrites todo) :
    ∃ t, run (2 * todo.length) s = .next t ∧ Quiescent t ∧ HashDone m t.block := by
  induction todo generalizing s with
  | nil => exact absurd rfl h.ne_nil
  | cons i todo ih =>
    obtain ⟨t, hrun, hinputs, hblock⟩ := run_two_of_commandWrites hl hi (2 * todo.length)
    have hempty : emptyLatch (fillLatch s.block (encode i)) = s.block := emptyLatch_fillLatch hl _
    have hnext : MessageNext m i todo (emptyLatch (fillLatch s.block (encode i))) := hempty ▸ h.next
    have hlatch : t.block.latch = none := by rw [hblock, coreBlock_latch]
    rw [hnext.coreBlock_eq] at hblock
    rw [List.length_cons, Nat.mul_add_one, hrun]
    by_cases hend : i = .endMessage
    · obtain ⟨rfl, hdone⟩ := hnext.last hend
      exact ⟨t, rfl, ⟨hinputs, hlatch⟩, hblock ▸ hdone⟩
    · exact ih (hblock ▸ hnext.on hend) hlatch hinputs

/-! ### Runs that come to a state (70_reset_and_hazards.md R143) -/

/-- How many steps a state can still take: the turns, two for each input, one for a pending command. -/
def workLeft (s : State) : Nat := s.turns.length + 2 * s.inputs.length + s.block.latch.toList.length

theorem latch_length_le_one (b : Block) : b.latch.toList.length ≤ 1 := by
  cases b.latch <;> simp

/-- A move of the host takes an input, or is a poll with a command pending. -/
theorem hostMove_progress {s t : State} (h : hostMove s = some t) :
    t.turns = s.turns ∧ (t.inputs.length + 1 = s.inputs.length ∨
      (s.block.latch ≠ none ∧ t.inputs = s.inputs ∧ t.block = s.block)) := by
  obtain ⟨a, rest, b, r, hi, -, rfl⟩ | ⟨rest, hi, rfl⟩ | ⟨rest, hi, rfl⟩ := hostMove_cases h
  · exact ⟨rfl, .inl (by simp [hi])⟩
  · refine ⟨rfl, ?_⟩
    by_cases hl : s.block.latch = none
    · exact .inl (by simp [hi, busy_of_empty hl])
    · exact .inr ⟨hl, by simp [busy_of_full hl], rfl⟩
  · exact ⟨rfl, .inl (by simp [hi])⟩

/-- Every step of a state that is not at rest makes progress. -/
theorem step_workLeft_lt {s : State} (h : ¬ Quiescent s) : ∃ t, step s = .next t ∧ workLeft t < workLeft s := by
  obtain ⟨hl, hm, -⟩ | ⟨t, hl, hm, hs⟩ | ⟨w, t, hl, hturn, hm, hs⟩ | ⟨w, hl, -, hs⟩ := sequence_cases s
  · refine absurd ⟨?_, hl⟩ h
    by_contra hi
    obtain ⟨t, ht⟩ := hostMove_of_empty hl hi
    simp [hm] at ht
  · refine ⟨t, hs, ?_⟩
    obtain ⟨hturns, hlen | ⟨hfull, -⟩⟩ := hostMove_progress hm
    · have := latch_length_le_one t.block
      simp only [workLeft, hturns]
      omega
    · exact absurd hl hfull
  · refine ⟨t, hs, ?_⟩
    obtain ⟨hturns, hprogress⟩ := hostMove_progress hm
    have htail : s.turns.tail.length + 1 = s.turns.length := by
      cases hq : s.turns with
      | nil => simp [turnOf, hq] at hturn
      | cons => rfl
    obtain hlen | ⟨-, hinputs, hblock⟩ := hprogress
    · have := latch_length_le_one t.block
      simp only [workLeft, hturns, takeTurn_turns, takeTurn_inputs] at hlen ⊢
      omega
    · simp only [workLeft, hturns, hinputs, hblock, takeTurn_turns, takeTurn_inputs, takeTurn_block]
      omega
  · refine ⟨_, hs.trans (coreStep_eq w _), ?_⟩
    have htail : s.turns.tail.length ≤ s.turns.length := by simp
    simp only [workLeft, mapBlock_block, mapBlock_inputs, mapBlock_turns, takeTurn_turns, takeTurn_inputs,
      coreBlock_latch, hl, Option.toList_none, Option.toList_some, List.length_nil, List.length_singleton]
    omega

/-- If every step from a state in P that is not in G keeps P and makes progress, the run comes to a first state in G. -/
theorem run_until {P G : State → Prop} {measure : State → Nat}
    (hstep : ∀ s, P s → ¬ G s → ∃ t, step s = .next t ∧ P t ∧ measure t < measure s) {s : State} (hs : P s) :
    ∃ k u, run k s = .next u ∧ P u ∧ G u ∧ ∀ j v, j < k → run j s = .next v → P v ∧ ¬ G v := by
  induction hn : measure s using Nat.strong_induction_on generalizing s with
  | _ n ih =>
    by_cases hG : G s
    · exact ⟨0, s, rfl, hs, hG, by simp⟩
    obtain ⟨t, ht, hPt, hlt⟩ := hstep s hs hG
    obtain ⟨k, u, hk, hPu, hGu, hbefore⟩ := ih _ (hn ▸ hlt) hPt rfl
    refine ⟨k + 1, u, (run_succ_of_step ht).trans hk, hPu, hGu, fun j v hj hv => ?_⟩
    cases j with
    | zero =>
      cases hv
      exact ⟨hs, hG⟩
    | succ j => exact hbefore j v (by omega) ((run_succ_of_step ht).symm.trans hv)

/-! ### A message among other inputs -/

/-- The word of END. -/
theorem encode_endMessage : encode .endMessage = 0x00000003 := by decide

/-- A bus error is no write to CMD. -/
theorem cmdWrite_of_isBusError {a : Access} (h : isBusError a = true) : cmdWrite (.access a) = none := by
  cases a with
  | read n off => rfl
  | write n off v =>
    refine if_neg ?_
    rintro ⟨rfl, rfl⟩
    exact absurd h (by rw [show (0x000 : Offset) = regOffset .cmd from rfl, isBusError_write]; simp [regWritable])

/-- A completed access changes ARG and LATCH at most, and puts in LATCH the word it writes to CMD. -/
theorem busAccess_latch {b c : Block} {a : Access} {r : Response} (h : busAccess b a = some (c, r)) :
    c = { b with arg := c.arg, latch := c.latch } ∧
      c.latch.toList = b.latch.toList ++ (cmdWrite (.access a)).toList := by
  obtain he | ⟨q, rfl⟩ | ⟨v, rfl⟩ | ⟨v, rfl⟩ := access_cases a
  · rw [busAccess_of_isBusError he] at h
    cases h
    exact ⟨rfl, by simp [cmdWrite_of_isBusError he]⟩
  · obtain rfl := busAccess_read_block h
    exact ⟨rfl, by simp [cmdWrite]⟩
  · rw [busAccess_write_cmd] at h
    split_ifs at h with hbusy
    cases h
    have hl : b.latch = none := by simpa [busy] using hbusy
    exact ⟨rfl, by simp [hl, cmdWrite]⟩
  · rw [busAccess_write_arg] at h
    split_ifs at h
    cases h
    exact ⟨rfl, by simp [cmdWrite]⟩

/-- No reset is held while a command is pending. -/
theorem not_heldWhileBusy_reset : ¬ HeldWhileBusy .reset := by
  rintro (h | ⟨_, h, -⟩) <;> cases h

theorem HeldWhileBusy.busAccess_eq_none {a : Access} (h : HeldWhileBusy (.access a)) {b : Block}
    (hl : b.latch ≠ none) : busAccess b a = none := by
  obtain h | ⟨a', ha, hstall⟩ := h
  · cases h
  · cases ha
    exact hstall b hl

/-- The inputs of R117: a message's writes to CMD among inputs that are neither writes to CMD nor resets, and then inputs
that are held while END is pending. -/
structure MessageInputs (m : List Byte) (mid rest : List Input) : Prop where
  words : mid.filterMap cmdWrite = (messageCommands m).map encode
  noReset : Input.reset ∉ mid
  held : ∀ i, rest.head? = some i → HeldWhileBusy i

/-- A run over these inputs before END's core step: the pending word and the writes in `ahead`, what is left of `mid`, are
the words of the commands `todo` of the message. -/
structure MessageState (m : List Byte) (mid rest ahead : List Input) (todo : List Instr) (s : State) : Prop where
  progress : MessageRun m todo s.block
  words : s.block.latch.toList ++ ahead.filterMap cmdWrite = todo.map encode
  inputs : s.inputs = ahead ++ rest
  suffix : ahead <:+ mid

section MessageStates
variable {m : List Byte} {mid rest ahead : List Input} {todo : List Instr} {s t : State} {w : Word}

theorem MessageState.after_takeTurn
    (h : MessageState m mid rest ahead todo s) : MessageState m mid rest ahead todo (takeTurn s) :=
  ⟨h.progress, h.words, h.inputs, h.suffix⟩

/-- With nothing of `mid` left, a word is pending. -/
theorem MessageState.latch_ne_none (h : MessageState m mid rest [] todo s) : s.block.latch ≠ none := by
  intro hl
  have hwords := h.words
  rw [hl] at hwords
  exact h.progress.ne_nil (List.map_eq_nil_iff.mp hwords.symm)

/-- The run is not at rest: a word is pending or still to be written. -/
theorem MessageState.not_quiescent (h : MessageState m mid rest ahead todo s) : ¬ Quiescent s := by
  rintro ⟨hi, hl⟩
  obtain ⟨rfl, -⟩ := List.append_eq_nil_iff.mp (h.inputs.symm.trans hi)
  exact h.latch_ne_none hl

/-- The next input of `mid` has been taken, its word latched if it is a write to CMD. -/
theorem MessageState.after_input {i : Input}
    (h : MessageState m mid rest (i :: ahead) todo s) (hinputs : t.inputs = ahead ++ rest)
    (hblock : t.block = { s.block with arg := t.block.arg, latch := t.block.latch })
    (hlatch : t.block.latch.toList = s.block.latch.toList ++ (cmdWrite i).toList) :
    MessageState m mid rest ahead todo t := by
  refine ⟨h.progress.of_host hblock, ?_, hinputs, (List.suffix_cons i ahead).trans h.suffix⟩
  rw [hlatch, ← h.words, List.append_assoc]
  cases hw : cmdWrite i <;> simp [hw]

/-- A move of the host takes the next input of `mid` or polls; what is held after `mid` does not move. -/
theorem MessageState.after_hostMove
    (hin : MessageInputs m mid rest) (h : MessageState m mid rest ahead todo s) (hm : hostMove s = some t) :
    ∃ ahead', MessageState m mid rest ahead' todo t := by
  have hsplit {i : Input} {is : List Input} (hi : s.inputs = i :: is) :
      ahead = [] ∧ rest = i :: is ∨ ∃ ahead', ahead = i :: ahead' ∧ is = ahead' ++ rest :=
    List.cons_eq_append_iff.mp (hi.symm.trans h.inputs)
  obtain ⟨a, is, b, r, hi, hb, rfl⟩ | ⟨is, hi, rfl⟩ | ⟨is, hi, rfl⟩ := hostMove_cases hm
  · obtain ⟨rfl, hrest⟩ | ⟨ahead', rfl, his⟩ := hsplit hi
    · have hstall := (hin.held (.access a) (by simp [hrest])).busAccess_eq_none h.latch_ne_none
      simp [hb] at hstall
    · obtain ⟨hblock, hlatch⟩ := busAccess_latch hb
      exact ⟨ahead', h.after_input his hblock hlatch⟩
  · by_cases hl : s.block.latch = none
    · obtain ⟨rfl, -⟩ | ⟨ahead', rfl, his⟩ := hsplit hi
      · exact absurd hl h.latch_ne_none
      · exact ⟨ahead', h.after_input (by simpa [busy_of_empty hl] using his) rfl (by simp [cmdWrite])⟩
    · exact ⟨ahead, h.progress, h.words, by simpa [busy_of_full hl] using h.inputs, h.suffix⟩
  · obtain ⟨rfl, hrest⟩ | ⟨_, rfl, -⟩ := hsplit hi
    · exact absurd (hin.held .reset (by simp [hrest])) not_heldWhileBusy_reset
    · exact absurd (h.suffix.mem List.mem_cons_self) hin.noReset

/-- A pending word is the word of the message's next command. -/
theorem MessageState.next (h : MessageState m mid rest ahead todo s) (hl : s.block.latch = some w) :
    ∃ i todo', todo = i :: todo' ∧ encode i = w ∧ MessageNext m i todo' (emptyLatch s.block) ∧
      ahead.filterMap cmdWrite = todo'.map encode := by
  have hwords := h.words
  rw [hl] at hwords
  obtain ⟨i, todo', rfl, hw, hrest⟩ := List.map_eq_cons_iff.mp hwords.symm
  exact ⟨i, todo', rfl, hw, (h.progress.of_host rfl).next, hrest.symm⟩

/-- A core step before END's runs the next command. -/
theorem MessageState.after_coreStep
    (h : MessageState m mid rest ahead todo s) (hl : s.block.latch = some w) (hw : w ≠ 0x00000003) :
    ∃ todo', MessageState m mid rest ahead todo' (s.mapBlock (coreBlock w)) := by
  obtain ⟨i, todo', rfl, rfl, hnext, hahead⟩ := h.next hl
  have hi : i ≠ .endMessage := by
    rintro rfl
    exact hw encode_endMessage
  refine ⟨todo', ?_, ?_, h.inputs, h.suffix⟩
  · rw [mapBlock_block, hnext.coreBlock_eq]
    exact hnext.on hi
  · rw [mapBlock_block, coreBlock_latch, hahead]
    rfl

/-- The run is somewhere before END's core step. -/
def InMessage (m : List Byte) (mid rest : List Input) (s : State) : Prop :=
  ∃ ahead todo, MessageState m mid rest ahead todo s

/-- Every step before END's core step makes progress within the message. -/
theorem InMessage.after_step (hin : MessageInputs m mid rest)
    (h : InMessage m mid rest s) (hx : ¬ Executes s 0x00000003) :
    ∃ t, step s = .next t ∧ InMessage m mid rest t ∧ workLeft t < workLeft s := by
  obtain ⟨ahead, todo, hstate⟩ := h
  obtain ⟨t, ht, hlt⟩ := step_workLeft_lt hstate.not_quiescent
  refine ⟨t, ht, ?_, hlt⟩
  unfold step at ht
  obtain ⟨-, -, hs⟩ | ⟨u, -, hm, hs⟩ | ⟨w, u, -, -, hm, hs⟩ | ⟨w, hl, hmoves, hs⟩ := sequence_cases s <;> rw [hs] at ht
  · cases ht
    exact ⟨ahead, todo, hstate⟩
  · cases ht
    obtain ⟨ahead', h'⟩ := hstate.after_hostMove hin hm
    exact ⟨ahead', todo, h'⟩
  · cases ht
    obtain ⟨ahead', h'⟩ := hstate.after_takeTurn.after_hostMove hin hm
    exact ⟨ahead', todo, h'⟩
  · rw [coreStep_eq] at ht
    cases ht
    obtain ⟨todo', h'⟩ := hstate.after_takeTurn.after_coreStep hl fun hw => hx ⟨hw ▸ hl, hmoves⟩
    exact ⟨ahead, todo', h'⟩

/-- No core step of the message leaves the block in ERROR. -/
theorem InMessage.phase_ne_error
    (h : InMessage m mid rest s) (hx : Executes s w) (ht : step s = .next t) : t.block.phase ≠ .error := by
  obtain ⟨ahead, todo, hstate⟩ := h
  obtain ⟨i, todo', -, rfl, hnext, -⟩ := hstate.next hx.1
  rw [step_of_executes hx] at ht
  cases ht
  rw [mapBlock_block, takeTurn_block, hnext.coreBlock_eq]
  exact hnext.phase

/-- END's core step leaves what R117 lists, and every word of the message has been taken from the inputs. -/
theorem InMessage.end_step (hin : MessageInputs m mid rest)
    (h : InMessage m mid rest s) (hx : Executes s 0x00000003) :
    ∃ t, step s = .next t ∧ HashDone m t.block ∧ t.block.latch = none ∧
      ∃ gone, mid ++ rest = gone ++ t.inputs ∧ gone.filterMap cmdWrite = (messageCommands m).map encode := by
  obtain ⟨ahead, todo, hstate⟩ := h
  obtain ⟨i, todo', -, hw, hnext, hahead⟩ := hstate.next hx.1
  obtain rfl : i = .endMessage := by
    have hd := decode_encode i
    rw [hw, ← encode_endMessage, decode_encode] at hd
    exact (Except.ok.inj hd).symm
  obtain ⟨rfl, hdone⟩ := hnext.last rfl
  obtain ⟨gone, hmid⟩ := hstate.suffix
  refine ⟨_, step_of_executes hx, ?_, coreBlock_latch _ _, gone, ?_, ?_⟩
  · rw [mapBlock_block, takeTurn_block, ← hw, hnext.coreBlock_eq]
    exact hdone
  · rw [mapBlock_inputs, takeTurn_inputs, hstate.inputs, ← hmid, List.append_assoc]
  · rw [← hin.words, ← hmid, List.filterMap_append, hahead, List.map_nil, List.append_nil]

/-- The state before the first write of the message. -/
theorem MessageInputs.inMessage (hin : MessageInputs m mid rest) (hl : s.block.latch = none)
    (hi : s.inputs = mid ++ rest) : InMessage m mid rest s :=
  ⟨mid, messageCommands m, .unstarted rfl, by simp [hl, hin.words], hi, List.suffix_rfl⟩

end MessageStates

/-- Settles O52: the writes alone by induction on the commands; among other inputs, by an invariant that holds up to the
first core step of END, to which every step makes progress. -/
theorem messageProgramComputesHash : Obligations.MessageProgramComputesHash := by
  refine ⟨fun s m hl hi => ?_, fun s m mid rest hl hi hwords hreset hheld => ?_⟩
  · have hlen : (messageCommands m).length = m.length + 2 := by simp [messageCommands]
    rw [← hlen]
    exact run_commandWrites (.unstarted rfl) hl (hi.trans (programInputs_message m))
  · have hin : MessageInputs m mid rest := ⟨hwords, hreset, hheld⟩
    obtain ⟨k, u, hk, hu, hx, hbefore⟩ := run_until (fun _ h hG => h.after_step hin hG) (hin.inMessage hl hi)
    obtain ⟨t, ht, hdone, hempty, hgone⟩ := hu.end_step hin hx
    refine ⟨k, u, t, hk, hx, ht, hdone, hempty, hi ▸ hgone, fun j v hj hv => (hbefore j v hj hv).2,
      fun j v v' w hj hv hxv hv' => ?_⟩
    have hv : InMessage m mid rest v := by
      obtain hj | rfl := Nat.lt_or_eq_of_le hj
      · exact (hbefore j v hj hv).1
      · obtain rfl : u = v := by simpa [hk] using hv
        exact hu
    exact hv.phase_ne_error hxv hv'

end Sys2Proof.Machine
end

section
/-! The command errors and the ERROR phase (60_exceptions.md R121 to R128), that no step stops the machine and every run
comes to rest (R129), and that the instances of a platform share nothing (R135). -/

namespace Sys2Proof.Machine

/-! ### A word that does not decode (60_exceptions.md R121, R124, R126) -/

/-- The decoder raises only the two errors of a word by itself; ILLEGAL_SEQUENCE is raised by the phase. -/
theorem decode_ne_illegalSequence (w : Word) : decode w ≠ .error .illegalSequence := by
  simp only [decode]
  split_ifs <;> simp

theorem coreBlock_of_undecodable {w : Word} {e : CmdError} {b : Block} (hp : b.phase ≠ .error)
    (hd : decode w = .error e) : coreBlock w b = enterError e w (emptyLatch b) := by
  simp [coreBlock, hp, hd]

theorem step_of_undecodable {s : State} {w : Word} {e : CmdError} (hx : Executes s w) (hp : s.block.phase ≠ .error)
    (hd : decode w = .error e) :
    step s = .next { s with turns := s.turns.tail, block := enterError e w (emptyLatch s.block) } := by
  rw [step_of_executes hx, State.mapBlock, takeTurn_block, coreBlock_of_undecodable hp hd]
  rfl

/-- Settles O31. -/
theorem undecodableWordEntersError : Obligations.UndecodableWordEntersError := fun _ w hx hp =>
  ⟨step_of_undecodable hx hp, step_of_undecodable hx hp, decode_ne_illegalSequence w⟩

/-! ### The ERROR phase (60_exceptions.md R127, R128) -/

theorem step_of_discarded {s : State} {w : Word} (hx : Executes s w) (hp : s.block.phase = .error)
    (hw : w ≠ startWord) : step s = .next { s with turns := s.turns.tail, block := emptyLatch s.block } := by
  rw [step_of_executes hx, State.mapBlock, takeTurn_block, coreBlock_of_discarded hp hw]
  rfl

/-- START executes in every phase, ERROR among them. -/
theorem step_of_startWord {s : State} (hx : Executes s startWord) :
    step s = .next ((fetched s).mapBlock startBlock) :=
  (stepRunsTheDecodedCommand s _ _ hx decode_startWord).trans (startBeginsComputation (fetched s))

/-- Settles O32. -/
theorem errorPhaseDiscards : Obligations.ErrorPhaseDiscards := by
  refine fun s w hx hp => ⟨step_of_discarded hx hp, ?_⟩
  rintro rfl
  exact ⟨stepRunsTheDecodedCommand s _ _ hx decode_startWord, _, step_of_startWord hx, rfl, rfl, rfl⟩

/-- A core step from ERROR on any word but START's empties LATCH and does nothing else. -/
theorem CoreEffect.eq_emptyLatch {w : Word} {b c : Block} (h : CoreEffect w b c) (hp : b.phase = .error)
    (hw : w ≠ startWord) : c = emptyLatch b := by
  cases h with
  | discarded _ _ hc => exact hc
  | undecodable _ hne _ _ => exact absurd hp hne
  | outOfSequence i hd hi _ =>
    have hi' : i ≠ .start := by
      rintro rfl
      exact hw (eq_startWord_of_decode hd)
    simp [hp, legality_error hi'] at hi
  | runs i hd hi _ =>
    obtain rfl := eq_start_of_legality_error (hp ▸ hi)
    exact absurd (eq_startWord_of_decode hd) hw

/-- Settles O40, by the agent that moves: the host writes at most ARG and LATCH, and the core discards the word. -/
theorem errorLeftOnlyByStartOrReset : Obligations.ErrorLeftOnlyByStartOrReset := by
  intro s t hstep hp hreset hstart
  cases step_effect hstep with
  | reset hr _ _ => exact absurd hr hreset
  | host _ hc =>
    rw [hc.frame]
    exact ⟨hp, rfl, rfl⟩
  | core w hx hc =>
    have hw : w ≠ startWord := by
      rintro rfl
      exact hstart hx
    rw [hc.eq_emptyLatch hp hw]
    exact ⟨hp, rfl, rfl⟩

/-! ### No step stops the machine, and every run comes to rest (60_exceptions.md R129, 70_reset_and_hazards.md R143) -/

/-- Settles O35: a step is idle, a move of the host, or a core step, and a core step always answers. -/
theorem everyStepHasANextState : Obligations.EveryStepHasANextState := by
  intro s
  obtain ⟨-, -, hs⟩ | ⟨t, -, -, hs⟩ | ⟨_, t, -, -, -, hs⟩ | ⟨w, -, -, hs⟩ := sequence_cases s
  · exact ⟨s, hs⟩
  · exact ⟨t, hs⟩
  · exact ⟨t, hs⟩
  · exact ⟨_, hs.trans (coreStep_eq w _)⟩

theorem Quiescent.step_eq {s : State} (h : Quiescent s) : step s = .next s := by
  obtain ⟨hi, hl⟩ := h
  simp [step, sequence, hostMove, hi, hl]

theorem Quiescent.run_eq {s : State} (h : Quiescent s) (k : Nat) : run k s = .next s := by
  induction k with
  | zero => rfl
  | succ k ih => exact (run_succ_of_step h.step_eq).trans ih

/-- A run of as many steps as there is work left comes to rest. -/
theorem run_quiescent_of_workLeft_le {k : Nat} {s : State} (h : workLeft s ≤ k) :
    ∃ t, run k s = .next t ∧ Quiescent t := by
  induction k generalizing s with
  | zero =>
    by_contra hrest
    obtain ⟨t, -, hlt⟩ := step_workLeft_lt fun hq => hrest ⟨s, hq.run_eq 0, hq⟩
    omega
  | succ k ih =>
    by_cases hq : Quiescent s
    · exact ⟨s, hq.run_eq _, hq⟩
    · obtain ⟨t, ht, hlt⟩ := step_workLeft_lt hq
      rw [run_succ_of_step ht]
      exact ih (by omega)

/-- Settles O56: the bound is the work left, with a pending command counted whether there is one or not. -/
theorem everyRunComesToRest : Obligations.EveryRunComesToRest := fun s =>
  run_quiescent_of_workLeft_le (Nat.add_le_add_left (latch_length_le_one s.block) _)

/-! ### The instances of a platform (60_exceptions.md R135) -/

/-- Well-formedness is a matter of the BASEs alone. -/
theorem platformWf_congr {p q : Platform} (h : q.instances.map (·.base) = p.instances.map (·.base)) :
    platformWf q = platformWf p := by
  have bases (r : Platform) : platformWf r = (!(r.instances.map (·.base)).isEmpty
      && (r.instances.map (·.base)).all (· % Config.windowBytes == 0)
      && decide (r.instances.map (·.base)).Nodup) := by
    simp [platformWf, List.all_map, Function.comp_def]
  rw [bases q, bases p, h]

/-- What a platform step can be: nothing where no block is numbered k, else a step of the state numbered k. -/
theorem platformStep_cases {p q : Platform} {k : Nat} (h : platformStep p k = .next q) :
    q = p ∨ ∃ i t, p.instances[k]? = some i ∧ step i.state = .next t ∧
      q = ⟨p.instances.set k { i with state := t }⟩ := by
  unfold platformStep at h
  split at h
  next => exact .inl (by simpa using h.symm)
  next i hi =>
    obtain ⟨t, ht⟩ := everyStepHasANextState i.state
    rw [ht] at h
    exact .inr ⟨i, t, hi, ht, by simpa using h.symm⟩

/-- Replacing the state numbered k keeps every BASE. -/
theorem map_base_set {is : List Instance} {k : Nat} {i : Instance} (hi : is[k]? = some i) (t : State) :
    (is.set k { i with state := t }).map (·.base) = is.map (·.base) := by
  obtain ⟨hk, rfl⟩ := List.getElem?_eq_some_iff.mp hi
  have hk' : k < (is.map (·.base)).length := by simpa using hk
  calc (is.set k { is[k] with state := t }).map (·.base)
    _ = (is.map (·.base)).set k (is.map (·.base))[k] := by rw [List.map_set, List.getElem_map]
    _ = is.map (·.base) := List.set_getElem_self hk'

/-- Settles O59. -/
theorem instancesShareNothing : Obligations.InstancesShareNothing := by
  intro p q k hp hstep
  obtain rfl | ⟨i, t, hi, -, rfl⟩ := platformStep_cases hstep
  · exact ⟨hp, rfl, fun _ _ => rfl⟩
  · have hbase := map_base_set hi t
    exact ⟨(platformWf_congr hbase).trans hp, hbase, fun j hj => List.getElem?_set_ne hj.symm⟩

end Sys2Proof.Machine
end

section
/-! The reset input and the block it leaves, and the access that waits for the core (70_reset_and_hazards.md R138, R141). -/

namespace Sys2Proof.Machine

/-! ### A stalled access (70_reset_and_hazards.md R141) -/

/-- A bus access stalls only while a command is pending. -/
theorem latch_ne_none_of_stall {b : Block} {a : Access} (h : busAccess b a = none) : b.latch ≠ none := by
  intro hl
  obtain ⟨c, r, hc⟩ := busAccess_of_empty a hl
  simp [h] at hc

/-- Where the next access stalls, the next step executes the pending word, whoever has the turn. -/
theorem executes_of_stall {s : State} {w : Word} {a : Access} {rest : List Input} (hl : s.block.latch = some w)
    (hi : s.inputs = .access a :: rest) (hb : busAccess s.block a = none) : Executes s w :=
  ⟨hl, .inr (hostMove_of_stall (s := takeTurn s) hi hb)⟩

/-- Settles O48: the access stalls because a command is pending, so the step is the core step on that command. -/
theorem stalledAccessWaitsForTheCore : Obligations.StalledAccessWaitsForTheCore := by
  intro s t a rest hi hb hstep
  have hfull := latch_ne_none_of_stall hb
  obtain ⟨w, hl⟩ := Option.ne_none_iff_exists'.mp hfull
  have hcore := step_of_executes (executes_of_stall hl hi hb)
  obtain rfl : (takeTurn s).mapBlock (coreBlock w) = t := by simpa [hcore] using hstep
  exact ⟨hfull, coreBlock_latch w s.block, rfl, rfl⟩

/-! ### The reset block (70_reset_and_hazards.md R138) -/

/-- Settles O37. -/
theorem resetIsConsistent : Obligations.ResetIsConsistent := consistent_reset

/-- Four zero bytes make the zero word (20_memory.md R58). -/
theorem packBytes_zero : packBytes 0 0 0 0 = 0 := rfl

/-- After reset every register of the map reads 0. -/
theorem readReg_reset (r : Reg) : readReg Block.reset r = 0 := by
  cases r with
  | cmd | arg | status | errCmd | prng | result | count | seq => rfl
  | ws k => simp only [readReg, wsGet_reset, packBytes_zero]
  | digest k => simp only [readReg, digGet_reset, packBytes_zero]

/-! ### The reset input (70_reset_and_hazards.md R138) -/

/-- Where the host may move and has a move, that move is the step; it takes a turn only while a command is pending. -/
theorem step_of_hostMay {s t : State} (hmay : HostMay s) (hm : hostMove { s with turns := turnsAfter s } = some t) :
    step s = .next t := by
  cases hl : s.block.latch with
  | none =>
    have hs : { s with turns := turnsAfter s } = s := by simp [turnsAfter, hl]
    rw [hs] at hm
    simp [step, sequence, hl, hm]
  | some w =>
    have hturn : turnOf s = .host := hmay.resolve_left (by simp [hl])
    have hs : { s with turns := turnsAfter s } = takeTurn s := by simp [turnsAfter, hl, takeTurn]
    rw [hs] at hm
    simp [step, sequence, hl, hturn, hm]

/-- The reset input is taken at once, a command pending or not, and the block is then the reset block. -/
theorem step_of_reset {s : State} {rest : List Input} (hmay : HostMay s) (hi : s.inputs = .reset :: rest) :
    step s = .next { s with block := Block.reset, inputs := rest, turns := turnsAfter s } :=
  step_of_hostMay hmay (by simp [hostMove, hi])

/-- Settles O38: the table of R138 and what it reads as, and the step of the reset input. -/
theorem resetSetsEveryElement : Obligations.ResetSetsEveryElement := by
  refine ⟨rfl, readReg_reset, fun s hreset => ?_⟩
  obtain ⟨hmay, rest, hi⟩ := hreset
  exact ⟨_, step_of_reset hmay hi, rfl⟩

end Sys2Proof.Machine
end
